-- ==== Sys2Proof/Word.lean ====
section
/-! DEFINITION. The words of the MODEXP engine: one bus word and command word (R60, R100), one opcode field, one register selector (R101). -/

namespace Sys2Proof

/-- One 32-bit bus word; a limb and a command word are words too (R4 `LIMB`, R60, R100). -/
abbrev Word := BitVec 32

/-- The 4-bit opcode field `OP` of a command word (R100). -/
abbrev Opcode := BitVec 4

/-- A register selector: the number of one of the eight operand registers `x0` to `x7` (R20, R101). -/
abbrev RegSel := Fin 8

end Sys2Proof
end

