-- ==== Sys2Proof/Config.lean ====
section
/-! DEFINITION. What an implementation fixes (00_scope R4): the operand width `W`. The spec leaves no value open, so there is no free value here. -/

namespace Sys2Proof.Config

/-- The parameters of one engine (R4). `W` is the width in bits of every operand register. -/
structure Params where
  W : Nat
  deriving DecidableEq, Repr

/-- The number of 32-bit limbs of a register, `L = W / 32` (R4). -/
def Params.L (p : Params) : Nat := p.W / 32

/-- The number of operand registers (R4). -/
def nreg : Nat := 8

/-- The reference configuration `W = 2048` (R4, D1). DESIGN CHOICE, assumption 1, unsafe: the spec leaves `W` open. -/
def reference : Params := ⟨2048⟩

end Sys2Proof.Config
end

