-- ==== Sys2Proof/Syntax.lean ====
section
/-! DEFINITION. The five commands of 30_encoding R102, one constructor per row of spec/opcode_table.json. -/

namespace Sys2Proof

/-- A command with its register selectors in the assembler's order (R102). A selector is a `Fin 8`, so there is no ill-formed command; which WORDS are commands is WellFormed.lean's. -/
inductive Instr where
  /-- `MODEXP xd, xb, xe, xm`: `x[rd] <- x[rs1]^x[rs2] mod x[rs3]` (R130). -/
  | modexp (rd rs1 rs2 rs3 : RegSel)
  /-- `MODINV xd, xa, xn`: `x[rd] <- x[rs1]^-1 mod x[rs2]` (R170). -/
  | modinv (rd rs1 rs2 : RegSel)
  /-- `GCD xd, xa, xb`: `x[rd] <- gcd(x[rs1], x[rs2])` (R150). -/
  | gcd (rd rs1 rs2 : RegSel)
  /-- `LCM xd, xa, xb`: `x[rd] <- lcm(x[rs1], x[rs2])` (R155). -/
  | lcm (rd rs1 rs2 : RegSel)
  /-- `CLR xd`: `x[rd] <- 0` (R190). -/
  | clr (rd : RegSel)
  deriving DecidableEq, Repr

/-- The destination register of a command (R102). -/
def Instr.rd : Instr → RegSel
  | .modexp rd _ _ _ => rd
  | .modinv rd _ _ => rd
  | .gcd rd _ _ => rd
  | .lcm rd _ _ => rd
  | .clr rd => rd

/-- The registers whose values a command uses (R130, R170, R150, R155; R190: `CLR` reads no register). -/
def Instr.sources : Instr → List RegSel
  | .modexp _ rs1 rs2 rs3 => [rs1, rs2, rs3]
  | .modinv _ rs1 rs2 => [rs1, rs2]
  | .gcd _ rs1 rs2 => [rs1, rs2]
  | .lcm _ rs1 rs2 => [rs1, rs2]
  | .clr _ => []

/-- The opcode of a command (R102, column `OP`). -/
def Instr.opcode : Instr → Opcode
  | .modexp .. => 1
  | .modinv .. => 2
  | .gcd .. => 3
  | .lcm .. => 4
  | .clr .. => 5

end Sys2Proof
end

