-- ==== Sys2Proof/WellFormed.lean ====
section
/-! DEFINITION. What is well formed: the legal values of `W` (R4) and the words that are commands (R103), written as the spec's list of what makes a word illegal and not through the decoder. -/

namespace Sys2Proof

/-- `W` is a multiple of 32 with `32 <= W <= 8192` (R4). -/
abbrev Config.Params.Legal (p : Config.Params) : Prop :=
  p.W % 32 = 0 ∧ 32 ≤ p.W ∧ p.W ≤ 8192

namespace CommandWord

/-- The reserved bits 7, 11, 15 and 31:19 are 0 (R100, R103). -/
abbrev ReservedClear (w : Word) : Prop :=
  w.getLsbD 7 = false ∧ w.getLsbD 11 = false ∧ w.getLsbD 15 = false ∧ w.toNat / 2 ^ 19 = 0

/-- The opcode is one of the five (R102, R103: `OP = 0x0` and `0x6` to `0xF` are illegal). -/
abbrev OpcodeDefined (w : Word) : Prop :=
  1 ≤ w.toNat % 16 ∧ w.toNat % 16 ≤ 5

/-- The selector fields a command does not use are 0 (R102 `Fields that must be 0`, R103). -/
abbrev UnusedSelectorsClear (w : Word) : Prop :=
  (2 ≤ w.toNat % 16 → w.toNat / 2 ^ 16 % 8 = 0) ∧
  (5 ≤ w.toNat % 16 → w.toNat / 2 ^ 8 % 8 = 0 ∧ w.toNat / 2 ^ 12 % 8 = 0)

/-- A word that is a command: every check of R103 holds. -/
abbrev WellFormed (w : Word) : Prop :=
  ReservedClear w ∧ OpcodeDefined w ∧ UnusedSelectorsClear w

end CommandWord

end Sys2Proof
end

