-- ==== Sys2Proof/Decode.lean ====
section
/-! DEFINITION. The decoder (R106), total on all 32-bit words, the encoder (R102) and the rows of the opcode map (R102). -/

namespace Sys2Proof

/-- Why a word is illegal (R103). All three are one and the same fault `ILLEGAL_CMD`; the name only says which clause of R103 applies first. -/
inductive IllegalWord where
  /-- A reserved bit (7, 11, 15, 31:19) is set. -/
  | reservedBit
  /-- `OP` is `0x0` or in `0x6` to `0xF`. -/
  | undefinedOpcode
  /-- A selector field that the command does not use is not 0. -/
  | unusedSelector
  deriving DecidableEq, Repr

/-- The field `w[lo+len-1 : lo]` of a word as a natural number (R10: `(v div 2^lo) mod 2^(hi-lo+1)`). -/
def field (w : Word) (lo len : Nat) : Nat := w.toNat / 2 ^ lo % 2 ^ len

/-- The 3-bit selector at `lo`, an unsigned number 0 to 7 (R101). -/
def selector (w : Word) (lo : Nat) : RegSel := Fin.ofNat 8 (field w lo 3)

/-- `Decode(w)` (R106), test by test in the spec's order. -/
def decode (w : Word) : Except IllegalWord Instr :=
  let rd := selector w 4
  let rs1 := selector w 8
  let rs2 := selector w 12
  let rs3 := selector w 16
  if field w 7 1 ≠ 0 ∨ field w 11 1 ≠ 0 ∨ field w 15 1 ≠ 0 ∨ field w 19 13 ≠ 0 then .error .reservedBit
  else if field w 0 4 = 1 then .ok (.modexp rd rs1 rs2 rs3)
  else if field w 0 4 = 2 then if rs3 = 0 then .ok (.modinv rd rs1 rs2) else .error .unusedSelector
  else if field w 0 4 = 3 then if rs3 = 0 then .ok (.gcd rd rs1 rs2) else .error .unusedSelector
  else if field w 0 4 = 4 then if rs3 = 0 then .ok (.lcm rd rs1 rs2) else .error .unusedSelector
  else if field w 0 4 = 5 then
    if rs1 = 0 ∧ rs2 = 0 ∧ rs3 = 0 then .ok (.clr rd) else .error .unusedSelector
  else .error .undefinedOpcode

/-- The word with the given field values: `w = OP + 16*rd + 256*rs1 + 4096*rs2 + 65536*rs3` (R102). -/
def assembleWord (op : Opcode) (rd rs1 rs2 rs3 : RegSel) : Word :=
  BitVec.ofNat 32 (op.toNat + 16 * rd.val + 256 * rs1.val + 4096 * rs2.val + 65536 * rs3.val)

/-- The command word of a command, the unused selectors 0 (R102). -/
def encode (i : Instr) : Word :=
  match i with
  | .modexp rd rs1 rs2 rs3 => assembleWord i.opcode rd rs1 rs2 rs3
  | .modinv rd rs1 rs2 => assembleWord i.opcode rd rs1 rs2 0
  | .gcd rd rs1 rs2 => assembleWord i.opcode rd rs1 rs2 0
  | .lcm rd rs1 rs2 => assembleWord i.opcode rd rs1 rs2 0
  | .clr rd => assembleWord i.opcode rd 0 0 0

/-- One row of the opcode map: the bits that must match and their values (R102). -/
structure OpcodeRow where
  mask : Word
  value : Word
  deriving DecidableEq, Repr

/-- A word selects a row when `w and mask = match` (R102). -/
def OpcodeRow.selects (r : OpcodeRow) (w : Word) : Bool := w &&& r.mask == r.value

/-- The row of the opcode map that a command belongs to (R102, columns `mask` and `match`). -/
def Instr.row : Instr → OpcodeRow
  | .modexp .. => ⟨0xFFF8888F, 0x00000001⟩
  | .modinv .. => ⟨0xFFFF888F, 0x00000002⟩
  | .gcd .. => ⟨0xFFFF888F, 0x00000003⟩
  | .lcm .. => ⟨0xFFFF888F, 0x00000004⟩
  | .clr .. => ⟨0xFFFFFF8F, 0x00000005⟩

/-- The opcode map, in the order of R102. -/
def opcodeMap : List OpcodeRow :=
  [⟨0xFFF8888F, 0x00000001⟩, ⟨0xFFFF888F, 0x00000002⟩, ⟨0xFFFF888F, 0x00000003⟩,
   ⟨0xFFFF888F, 0x00000004⟩, ⟨0xFFFFFF8F, 0x00000005⟩]

/-- What the decoder reads from an instruction of `nbits` bits numbered as spec/opcode_table.json numbers them. A command is one 32-bit word (R100); a longer number with a bit above bit 31 is no command word. -/
def decodeTableWord (nbits w : Nat) : Option Instr :=
  if w % 2 ^ nbits < 2 ^ 32 then
    match decode (BitVec.ofNat 32 (w % 2 ^ nbits)) with
    | .ok i => some i
    | .error _ => none
  else none

end Sys2Proof
end

