-- ==== Sys2Proof/Machine/State.lean ====
section
/-! DEFINITION. The state of the block (10_state, the `State` tuple), of its inputs and of the host in front of it, all plain data; why a step can stop; the state after reset (R50). -/

namespace Sys2Proof.Machine

open Sys2Proof.Config

/-- Engine control: no command in progress, or one accepted and not ended (R32). -/
inductive Phase where
  | idle
  | run
  deriving DecidableEq, Repr

/-- The latched command: opcode and destination selector, `{0, 0}` unless `phase = RUN` (R32). -/
structure Cur where
  op : Opcode
  rd : RegSel
  deriving DecidableEq, Repr

/-- The working registers, one of six shapes (R33). -/
inductive Work where
  /-- `WkNone`: `phase = IDLE`. -/
  | none
  /-- `WkExp`: accumulator, running base, remaining exponent, modulus of `MODEXP`. -/
  | exp (acc bs ex md : Nat)
  /-- `WkGcd`: the pair of the Euclidean iteration of `GCD`. -/
  | gcd (u v : Nat)
  /-- `WkLcm`: the pair, and the two original operands, of `LCM`. -/
  | lcm (u v pa pb : Nat)
  /-- `WkInv`: remainders, Bezout coefficients (signed) and modulus of `MODINV`. -/
  | inv (r0 r1 : Nat) (t0 t1 : Int) (md : Nat)
  /-- `WkClr`: `CLR` has no working values. -/
  | clr
  deriving DecidableEq, Repr

/-- One host transaction (R7, R60): `MemRead(addr, n)` or `MemWrite(addr, n, v)`. Address and size are any numbers, since R65 and R66 answer every one of them. -/
inductive Txn where
  | read (addr n : Nat)
  | write (addr n : Nat) (v : Word)
  deriving DecidableEq, Repr

/-- The port's answer (R60): `ok(v)` to a read, `ok` to a write, `err` to either. -/
inductive Answer where
  | okRead (v : Word)
  | okWrite
  | err
  deriving DecidableEq, Repr

/-- What the host still has to do, line by line (R108, R109). Every line but the last two is one fixed transaction. -/
inductive HostLine where
  /-- Present one transaction. -/
  | bus (t : Txn)
  /-- `WAIT`: read `STATUS` again and again until the answer's bit 0 (`BUSY`) is 0 (R109). -/
  | wait
  /-- The second half of `ABORT`: write `(answer and 0x3) + 0x10` to `CTRL`, `answer` the value of the read just before (R109). -/
  | abortWrite
  deriving DecidableEq, Repr

/-- Who moves next (R7), and the two edges of the reset input (R240). -/
inductive Turn where
  | host
  | engine
  | rstLow
  | rstHigh
  deriving DecidableEq, Repr

/-- The state. The first ten fields are the block's own (10_state); the last four are its reset input and the host in front of its port. -/
structure State where
  /-- The parameters (R4); no step changes them. -/
  params : Params
  /-- The operand registers `x[0]` to `x[7]`, each a natural number below `2^W` (R20). -/
  x : Vector Nat 8
  /-- `CTRL.IE_DONE` (R25). -/
  ieDone : Bool
  /-- `CTRL.IE_ERR` (R25). -/
  ieErr : Bool
  /-- `STATUS.DONE` (R26). -/
  done : Bool
  /-- `STATUS.ERR` (R26). -/
  err : Bool
  /-- `STATUS.ERRCODE` (R26). -/
  errcode : BitVec 4
  /-- Engine control; `STATUS.BUSY` is `phase = RUN` (R26, R32). -/
  phase : Phase
  /-- The latched command (R32). -/
  cur : Cur
  /-- The working registers (R33). -/
  wk : Work
  /-- The level of the reset input `rst_n`; `false` holds the block in reset (R240). -/
  rstN : Bool
  /-- What the host still has to present, first line first (R7, R108). -/
  host : List HostLine
  /-- The answers the port has given, newest first (R60). -/
  answers : List Answer
  /-- Who moves next, first move first; the interleaving R7 leaves free (assumption 3). -/
  turns : List Turn
  deriving DecidableEq, Repr

/-- Why the machine stops. The block itself never stops: its own faults are reported in `STATUS` and are next states (R45, R211). -/
inductive Fault where
  /-- Raised by the engine's step when `phase = RUN` and the working registers do not have the shape R33 fixes for `cur.op`, where `Step_op(wk)` of R42 is not defined. No run from reset reaches such a state. Safe (assumption 5). -/
  | engineStateMismatch
  deriving DecidableEq, Repr

/-- Why an instruction has no meaning. -/
inductive Refusal where
  /-- Raised by an arm of `exec` whose instruction has no meaning yet; the string is its mnemonic in spec/opcode_table.json. Safe. No arm of this model raises it. -/
  | notModelled (mnemonic : String)
  deriving DecidableEq, Repr

/-- The outcome of a step of this machine. -/
abbrev Outcome := Host.Outcome State Fault Refusal

/-- The state after reset of an engine with the parameters `p` (R50), `rst_n` back at 1, and a host that has presented nothing (assumptions 2, 3, 4). -/
def State.resetAt (p : Params) : State where
  params := p
  x := #v[0, 0, 0, 0, 0, 0, 0, 0]
  ieDone := false
  ieErr := false
  done := false
  err := false
  errcode := 0
  phase := .idle
  cur := ⟨0, 0⟩
  wk := .none
  rstN := true
  host := []
  answers := []
  turns := []

/-- The machine right after reset (R50), in the reference configuration of R4 (assumption 1). -/
def State.reset : State := State.resetAt reference

end Sys2Proof.Machine
end

