-- ==== Sys2Proof/Machine/Operands.lean ====
section
/-! DEFINITION. The operand forms: reading and writing an operand register (R10, R20), its limbs (R10, R63), and the arithmetic primitives of R10 and R13. -/

namespace Sys2Proof.Machine

/-- The field `v[hi:lo]` of a natural number, `(v div 2^lo) mod 2^(hi-lo+1)` (R10). -/
def bitField (v hi lo : Nat) : Nat := v / 2 ^ lo % 2 ^ (hi - lo + 1)

/-- `limb(v, j)`: the `j`-th 32-bit limb, limb 0 the least significant (R10, R63). -/
def limb (v j : Nat) : Word := BitVec.ofNat 32 (bitField v (32 * j + 31) (32 * j))

/-- `setlimb(v, j, d)`: `v` with limb `j` replaced by `d` (R10). -/
def setlimb (v j : Nat) (d : Word) : Nat :=
  v - (limb v j).toNat * 2 ^ (32 * j) + d.toNat * 2 ^ (32 * j)

/-- `mulmod(a, b, m)`: the exact product, reduced (R10, R138). Used for `m > 0` only. -/
def mulmod (a b m : Nat) : Nat := a * b % m

/-- `bitlen(v)`: the least `k` with `v < 2^k` (R10). -/
def bitlen (v : Nat) : Nat := if v = 0 then 0 else Nat.log2 v + 1

/-- `t emod n`: the representative of `t` in `[0, n)`, for `n > 0` (R10). -/
def emod (t : Int) (n : Nat) : Nat := (t % (n : Int)).toNat

/-- `E(a, b)`: the number of iterations of `(u, v) <- (v, u mod v)` from `(a, b)` until `v = 0` (R46); `fuel` bounds them. -/
def euclidItersFuel : Nat → Nat → Nat → Nat
  | 0, _, _ => 0
  | fuel + 1, u, v => if v = 0 then 0 else euclidItersFuel fuel v (u % v) + 1

/-- `E(a, b)` (R46). The second component falls at every iteration, so `b` is fuel enough. -/
def euclidIters (a b : Nat) : Nat := euclidItersFuel b a b

/-- `x[i]`: the value of operand register `i` (R10). All eight are alike; none is hard-wired (R20). -/
def State.readX (s : State) (i : RegSel) : Nat := s.x[i]

/-- `x[i] <- v` (R10): the one operation that writes an operand register. -/
def State.writeX (s : State) (i : RegSel) (v : Nat) : State := { s with x := s.x.set i v }

/-- The limb write `x[i] <- setlimb(x[i], j, d)` (R66, R194). -/
def State.writeLimb (s : State) (i : RegSel) (j : Nat) (d : Word) : State :=
  s.writeX i (setlimb (s.readX i) j d)

end Sys2Proof.Machine
end

