-- ==== Sys2Proof/Machine/Flags.lean ====
section
/-! DEFINITION. The control and status registers as words (R25 to R29), the interrupt output (R30), and the ways `DONE`, `ERR`, `ERRCODE` and the enables change (R25, R192). -/

namespace Sys2Proof.Machine

/-- The constant the `ID` register reads (R29). -/
def idWord : Word := 0x4D455850

/-- What the `PARAM` register reads, `0x00080000 + W` (R28). -/
def paramWord (p : Config.Params) : Word := BitVec.ofNat 32 (0x00080000 + p.W)

/-- A flag as a number. -/
def bit (b : Bool) : Nat := if b then 1 else 0

/-- `STATUS.BUSY`: 1 exactly when `phase = RUN` (R26). -/
def State.busy (s : State) : Bool := decide (s.phase = .run)

/-- What the `CTRL` register reads, `IE_DONE + 2*IE_ERR` (R25). -/
def State.ctrlWord (s : State) : Word := BitVec.ofNat 32 (bit s.ieDone + 2 * bit s.ieErr)

/-- What the `STATUS` register reads, `BUSY + 2*DONE + 4*ERR + 256*ERRCODE` (R26). -/
def State.statusWord (s : State) : Word :=
  BitVec.ofNat 32 (bit s.busy + 2 * bit s.done + 4 * bit s.err + 256 * s.errcode.toNat)

/-- The interrupt output, a level and a pure function of the state (R30, R214). -/
def State.irq (s : State) : Bool := (s.ieDone && s.done) || (s.ieErr && s.err)

/-- The enables of a `CTRL` write: `ie_done <- v[0]; ie_err <- v[1]` (R193). -/
def State.setEnables (s : State) (v : Word) : State :=
  { s with ieDone := v.getLsbD 0, ieErr := v.getLsbD 1 }

/-- `done <- 0`. -/
def State.clearDone (s : State) : State := { s with done := false }

/-- `err <- 0; errcode <- 0`: the code is cleared together with the flag (R26). -/
def State.clearErr (s : State) : State := { s with err := false, errcode := 0 }

/-- The write-one-to-clear of `STATUS` (R192). -/
def State.writeOneToClear (s : State) (v : Word) : State :=
  let s1 := if v.getLsbD 1 then s.clearDone else s
  if v.getLsbD 2 then s1.clearErr else s1

end Sys2Proof.Machine
end

