-- ==== Sys2Proof/Machine/Ops.lean ====
section
/-! DEFINITION. The shared operations of the command lifecycle: accept (R40), complete (R44), raise a fault (R41, R45, R211), end a command, abort (R191), hold in reset (R240), answer the host (R60). -/

namespace Sys2Proof.Machine

/-- The fault codes (R210). Codes 6 to 15 are never produced. -/
inductive FaultCode where
  | illegalCmd
  | modZero
  | notCoprime
  | lcmZero
  | overflow
  deriving DecidableEq, Repr

/-- The value recorded in `STATUS.ERRCODE` (R210). -/
def FaultCode.code : FaultCode → BitVec 4
  | .illegalCmd => 1
  | .modZero => 2
  | .notCoprime => 3
  | .lcmZero => 4
  | .overflow => 5

/-- The port answers the host (R60); the newest answer is first. -/
def State.respond (s : State) (a : Answer) : State := { s with answers := a :: s.answers }

/-- Accept a command: the flags cleared, opcode, destination and working registers latched, the engine started (R40). No operand register changes. -/
def State.accept (s : State) (op : Opcode) (rd : RegSel) (wk : Work) : State :=
  { s with done := false, err := false, errcode := 0, cur := ⟨op, rd⟩, wk := wk, phase := .run }

/-- The end of a command run: `phase <- IDLE; cur <- {0, 0}; wk <- WkNone` (R44, R45, R191; the working registers are zeroised, R33). -/
def State.toIdle (s : State) : State := { s with phase := .idle, cur := ⟨0, 0⟩, wk := .none }

/-- Complete with the result `v`: `x[cur.rd] <- v; done <- 1`, and the run ends (R44). -/
def State.complete (s : State) (v : Nat) : State :=
  { (s.writeX s.cur.rd v).toIdle with done := true }

/-- Raise a fault of the running command: `err <- 1; errcode <- code`, and the run ends (R45, R211). No operand register changes and `done` is untouched. There is no return from a fault: the block is idle and usable at once (R216). -/
def State.raiseFault (s : State) (c : FaultCode) : State :=
  { s.toIdle with err := true, errcode := c.code }

/-- An illegal command word: `done <- 0; err <- 1; errcode <- 1`; `phase`, `cur`, `wk` and every register stay (R41). -/
def State.illegalCommand (s : State) : State :=
  { s with done := false, err := true, errcode := FaultCode.illegalCmd.code }

/-- The abort of R191 without its enables: a running command is discarded, an idle engine is left alone. No flag and no register changes. -/
def State.abortCommand (s : State) : State := if s.phase = .run then s.toIdle else s

/-- The block held in reset: every piece of the block's state takes its value of R50 (R240). The parameters, the reset input and the host are not the block's state. -/
def State.resetBlock (s : State) : State :=
  { State.resetAt s.params with rstN := s.rstN, host := s.host, answers := s.answers, turns := s.turns }

/-- The write of a legal command word to `CMD` with its sources already latched in `wk`: turned away with `err` and no other effect while a command runs (R27, R68), else accepted and answered `ok` (R40). -/
def State.issue (s : State) (op : Opcode) (rd : RegSel) (wk : Work) : Outcome :=
  if s.phase = .run then .next (s.respond .err)
  else .next ((s.accept op rd wk).respond .okWrite)

/-- The outcome of one engine step (R43). -/
inductive StepResult where
  /-- `Continue(wk')`. -/
  | cont (wk : Work)
  /-- `Complete(v)`. -/
  | complete (v : Nat)
  /-- `Fault(code)`. -/
  | fault (c : FaultCode)
  deriving DecidableEq, Repr

/-- Apply the outcome of an engine step (R43). -/
def State.apply (s : State) : StepResult → State
  | .cont wk => { s with wk := wk }
  | .complete v => s.complete v
  | .fault c => s.raiseFault c

end Sys2Proof.Machine
end

