-- ==== Sys2Proof/Machine/Control.lean ====
section
/-! DEFINITION. The `CLR` command (43_control R190) and the writes of `CTRL` and `STATUS` (R25, R191, R192, R193). -/

namespace Sys2Proof.Machine

/-- `Init_CLR(s1, s2, s3) = WkClr`: the latched sources are ignored (R190). -/
def initClr : Work := .clr

/-- `Step_CLR(WkClr) = Complete(0)` (R190). -/
def stepClr : StepResult := .complete 0

/-- `CLR xd` written to `CMD` (R40, R190). -/
def execClr (rd : RegSel) (s : State) : Outcome := s.issue 5 rd initClr

/-- The effect of a `CTRL` write: first the enables, then, when bit 4 is 1, the abort, in the one atomic host step (R25, R191, R193). -/
def State.writeCtrl (s : State) (v : Word) : State :=
  if v.getLsbD 4 then (s.setEnables v).abortCommand else s.setEnables v

/-- The effect of a `STATUS` write (R192). -/
def State.writeStatus (s : State) (v : Word) : State := s.writeOneToClear v

end Sys2Proof.Machine
end

