-- ==== Sys2Proof/Machine/GcdLcm.lean ====
section
/-! DEFINITION. The `GCD` and `LCM` commands (41_gcd_lcm R150, R155). -/

namespace Sys2Proof.Machine

/-- `Init_GCD(s1, s2, s3)` (R150). -/
def initGcd (s1 s2 : Nat) : Work := .gcd s1 s2

/-- `Step_GCD(WkGcd)` (R150): both new values from the old pair. -/
def stepGcd (u v : Nat) : StepResult :=
  if v = 0 then .complete u else .cont (.gcd v (u % v))

/-- `Init_LCM(s1, s2, s3)` (R155). -/
def initLcm (s1 s2 : Nat) : Work := .lcm s1 s2 s1 s2

/-- `Step_LCM(WkLcm)` (R155) in an engine of width `W`: the product and the division are exact, a result of `2^W` or more is the fault `OVERFLOW` and never truncated (R157). -/
def stepLcm (W u v pa pb : Nat) : StepResult :=
  if pa = 0 ∧ pb = 0 then .fault .lcmZero
  else if v ≠ 0 then .cont (.lcm v (u % v) pa pb)
  else if 2 ^ W ≤ pa * pb / u then .fault .overflow
  else .complete (pa * pb / u)

/-- `GCD xd, xa, xb` written to `CMD`: both sources are latched now (R40, R48, R150). -/
def execGcd (rd rs1 rs2 : RegSel) (s : State) : Outcome :=
  s.issue 3 rd (initGcd (s.readX rs1) (s.readX rs2))

/-- `LCM xd, xa, xb` written to `CMD`: both sources are latched now (R40, R48, R155). -/
def execLcm (rd rs1 rs2 : RegSel) (s : State) : Outcome :=
  s.issue 4 rd (initLcm (s.readX rs1) (s.readX rs2))

end Sys2Proof.Machine
end

