-- ==== Sys2Proof/Machine/Modexp.lean ====
section
/-! DEFINITION. The `MODEXP` command (40_modexp R130). -/

namespace Sys2Proof.Machine

/-- `Init_MODEXP(s1, s2, s3)` (R130). -/
def initModexp (s1 s2 s3 : Nat) : Work := .exp 1 s1 s2 s3

/-- `Step_MODEXP(WkExp)` (R130): least significant exponent bit first (R137), the final step reduces `acc` (R136). -/
def stepModexp (acc bs ex md : Nat) : StepResult :=
  if md = 0 then .fault .modZero
  else if ex = 0 then .complete (acc % md)
  else .cont (.exp (if ex % 2 = 1 then mulmod acc bs md else acc) (mulmod bs bs md) (ex / 2) md)

/-- `MODEXP xd, xb, xe, xm` written to `CMD`: the three sources are latched now (R40, R48, R130). -/
def execModexp (rd rs1 rs2 rs3 : RegSel) (s : State) : Outcome :=
  s.issue 1 rd (initModexp (s.readX rs1) (s.readX rs2) (s.readX rs3))

end Sys2Proof.Machine
end

