-- ==== Sys2Proof/Machine/Modinv.lean ====
section
/-! DEFINITION. The `MODINV` command (42_modinv R170). -/

namespace Sys2Proof.Machine

/-- `Init_MODINV(s1, s2, s3)` with `s1` the value to invert and `s2` the modulus (R170). -/
def initModinv (s1 s2 : Nat) : Work := .inv s2 s1 0 1 s2

/-- `Step_MODINV(WkInv)` (R170): all new values from the old ones. -/
def stepModinv (r0 r1 : Nat) (t0 t1 : Int) (md : Nat) : StepResult :=
  if md = 0 then .fault .modZero
  else if r1 ≠ 0 then .cont (.inv r1 (r0 - r0 / r1 * r1) t1 (t0 - (r0 / r1 : Nat) * t1) md)
  else if r0 ≠ 1 then .fault .notCoprime
  else .complete (emod t0 md)

/-- `MODINV xd, xa, xn` written to `CMD`: both sources are latched now (R40, R48, R170). -/
def execModinv (rd rs1 rs2 : RegSel) (s : State) : Outcome :=
  s.issue 2 rd (initModinv (s.readX rs1) (s.readX rs2))

end Sys2Proof.Machine
end

