-- ==== Sys2Proof/Machine/Dispatch.lean ====
section
/-! DEFINITION. `exec`: the effect of writing a command's word to `CMD`, one arm per command. -/

namespace Sys2Proof.Machine

/-- What a command does when the host writes its word to `CMD` (R40, R68). The engine's steps of the accepted command are Machine/Engine.lean's (R42). -/
def exec (i : Instr) (s : State) : Host.Outcome State Fault Refusal :=
  match i with
  | .modexp rd rs1 rs2 rs3 => Sys2Proof.Machine.execModexp rd rs1 rs2 rs3 s
  | .modinv rd rs1 rs2 => Sys2Proof.Machine.execModinv rd rs1 rs2 s
  | .gcd rd rs1 rs2 => Sys2Proof.Machine.execGcd rd rs1 rs2 s
  | .lcm rd rs1 rs2 => Sys2Proof.Machine.execLcm rd rs1 rs2 s
  | .clr rd => Sys2Proof.Machine.execClr rd s

end Sys2Proof.Machine
end

