-- ==== Sys2Proof/Machine/Bus.lean ====
section
/-! DEFINITION. The host bus: address map (R61, R62), `MemRead` (R65), `MemWrite` (R66), and fetching a command word from the `CMD` write (R27). -/

namespace Sys2Proof.Machine

/-- `XADDR(i, j) = 0x1000 + 0x400*i + 4*j`, the offset of limb `j` of `x[i]` (R62). -/
def xaddr (i : RegSel) (j : Nat) : Nat := 0x1000 + 0x400 * i.val + 4 * j

/-- The register of a window address, `(addr - 0x1000)[12:10]` (R62). -/
def windowReg (addr : Nat) : RegSel := Fin.ofNat 8 (bitField (addr - 0x1000) 12 10)

/-- The limb index of a window address, `(addr - 0x1000)[9:2]` (R62). -/
def windowLimb (addr : Nat) : Nat := bitField (addr - 0x1000) 9 2

/-- A transaction the port can carry out at all: 4 bytes, aligned, inside the aperture (R64). -/
abbrev LegalAccess (addr n : Nat) : Prop := n = 4 ∧ addr % 4 = 0 ∧ addr ≤ 0x3FFF

/-- The addresses of the eight register windows (R61). -/
abbrev InWindow (addr : Nat) : Prop := 0x1000 ≤ addr ∧ addr ≤ 0x2FFF

/-- `MemRead(addr, n)` (R65), first match wins. It is an answer only: a read never changes state (R69). -/
def memRead (s : State) (addr n : Nat) : Answer :=
  if ¬ LegalAccess addr n then .err
  else if addr = 0x0000 then .okRead idWord
  else if addr = 0x0004 then .okRead (paramWord s.params)
  else if addr = 0x0008 then .okRead s.ctrlWord
  else if addr = 0x000C then .okRead s.statusWord
  else if addr = 0x0010 then .okRead 0
  else if InWindow addr then
    if s.params.L ≤ windowLimb addr then .err
    else if s.phase = .run then .err
    else .okRead (limb (s.readX (windowReg addr)) (windowLimb addr))
  else .err

/-- The write of the word `v` to `CMD` (R27): refused while a command runs (R68), a legal word runs its command (R40), an illegal word is recorded (R41). -/
def writeCmd (s : State) (v : Word) : Outcome :=
  if s.phase = .run then .next (s.respond .err)
  else
    match decode v with
    | .ok i => exec i s
    | .error _ => .next (s.illegalCommand.respond .okWrite)

/-- `MemWrite(addr, n, v)` (R66), first match wins, with the port's answer. On `err` nothing else changes. -/
def memWrite (s : State) (addr n : Nat) (v : Word) : Outcome :=
  if ¬ LegalAccess addr n then .next (s.respond .err)
  else if addr = 0x0000 ∨ addr = 0x0004 then .next (s.respond .err)
  else if addr = 0x0008 then .next ((s.writeCtrl v).respond .okWrite)
  else if addr = 0x000C then .next ((s.writeStatus v).respond .okWrite)
  else if addr = 0x0010 then writeCmd s v
  else if InWindow addr then
    if s.params.L ≤ windowLimb addr then .next (s.respond .err)
    else if s.phase = .run then .next (s.respond .err)
    else .next ((s.writeLimb (windowReg addr) (windowLimb addr) v).respond .okWrite)
  else .next (s.respond .err)

/-- One host transaction, carried out and answered (R60, R70). -/
def transact (s : State) : Txn → Outcome
  | .read addr n => .next (s.respond (memRead s addr n))
  | .write addr n v => memWrite s addr n v

end Sys2Proof.Machine
end

