-- ==== Sys2Proof/Machine/Engine.lean ====
section
/-! DEFINITION. The engine: `Step_op(wk)` of the command in progress (R42) and the application of its outcome (R43 to R45). -/

namespace Sys2Proof.Machine

/-- `Init_op(s1, s2, s3)` of a command, its sources read in the state of the `CMD` write (R40, R48). -/
def initOp (i : Instr) (s : State) : Work :=
  match i with
  | .modexp _ rs1 rs2 rs3 => initModexp (s.readX rs1) (s.readX rs2) (s.readX rs3)
  | .modinv _ rs1 rs2 => initModinv (s.readX rs1) (s.readX rs2)
  | .gcd _ rs1 rs2 => initGcd (s.readX rs1) (s.readX rs2)
  | .lcm _ rs1 rs2 => initLcm (s.readX rs1) (s.readX rs2)
  | .clr _ => initClr

/-- `Step_op(wk)` (R42) in an engine of width `W`. `none` where `wk` does not have the shape R33 fixes for `op` (assumption 5). -/
def stepOp (W : Nat) (op : Opcode) (wk : Work) : Option StepResult :=
  match wk with
  | .exp acc bs ex md => if op = 1 then some (stepModexp acc bs ex md) else none
  | .inv r0 r1 t0 t1 md => if op = 2 then some (stepModinv r0 r1 t0 t1 md) else none
  | .gcd u v => if op = 3 then some (stepGcd u v) else none
  | .lcm u v pa pb => if op = 4 then some (stepLcm W u v pa pb) else none
  | .clr => if op = 5 then some stepClr else none
  | .none => none

/-- One engine step (R42): while `phase = IDLE` the engine has none and changes nothing. -/
def engineStep (s : State) : Outcome :=
  match s.phase with
  | .idle => .next s
  | .run =>
    match stepOp s.params.W s.cur.op s.wk with
    | some r => .next (s.apply r)
    | none => .fault .engineStateMismatch

/-- `k` engine steps with no host step between them (R46 counts these). -/
def engineSteps : Nat → State → Outcome
  | 0, s => .next s
  | k + 1, s =>
    match engineStep s with
    | .next t => engineSteps k t
    | .fault f => .fault f
    | .refused r => .refused r

end Sys2Proof.Machine
end

