-- ==== Sys2Proof/Machine/Agents.lean ====
section
/-! DEFINITION. The moves of the agents (R7): a host line (R108, R109), an engine step (R42), an edge of the reset input (R240), and who moves next. -/

namespace Sys2Proof.Machine

/-- The first host line is done with. -/
def State.popLine (s : State) : State := { s with host := s.host.tail }

/-- The first turn is used up. -/
def State.popTurn (s : State) : State := { s with turns := s.turns.tail }

/-- The value of the newest answer, 0 where it is no `ok(v)` (assumption 2). -/
def State.lastValue (s : State) : Word :=
  match s.answers with
  | .okRead v :: _ => v
  | _ => 0

/-- The word the macro `ABORT` writes to `CTRL`: `(answer and 0x3) + 0x10` (R109). -/
def State.abortWord (s : State) : Word := (s.lastValue &&& 3) + 0x10

/-- The transaction the host presents at the port, `none` while it presents none: the transaction of its first line (R108), the `STATUS` read of a `WAIT`, the `CTRL` write of an `ABORT` (R109). It is presented until it is answered (R60, R75). -/
def State.presented (s : State) : Option Txn :=
  match s.host with
  | [] => none
  | .bus t :: _ => some t
  | .wait :: _ => some (.read 0x000C 4)
  | .abortWrite :: _ => some (.write 0x0008 4 s.abortWord)

/-- Whether the answer to the presented transaction leaves the line standing: a `WAIT` whose answer has bit 0 (`BUSY`) equal to 1 reads again (R109). -/
def State.keepsLine (s : State) : Bool :=
  match s.host with
  | [] => false
  | .bus _ :: _ => false
  | .wait :: _ => s.statusWord.getLsbD 0
  | .abortWrite :: _ => false

/-- The host moved on past the presented transaction. -/
def State.nextLine (s : State) : State := if s.keepsLine then s else s.popLine

/-- One host step: the presented transaction, carried out and answered. While `rst_n` is 0 the port answers nothing, so the transaction stays presented (R240, assumption 4). A host that presents none does nothing. -/
def hostMove (s : State) : Outcome :=
  if s.rstN = false then .next s.resetBlock
  else
    match s.presented with
    | none => .next s
    | some t => transact s.nextLine t

/-- One engine step; while `rst_n` is 0 the block is held in reset instead (R42, R240). -/
def engineMove (s : State) : Outcome :=
  if s.rstN = false then .next s.resetBlock else engineStep s

/-- `rst_n` goes to 0: the whole block takes the values of R50 (R240). -/
def resetAssert (s : State) : State := { s.resetBlock with rstN := false }

/-- `rst_n` returns to 1: at that moment the block has the values of R50 (R240). -/
def resetRelease (s : State) : State := if s.rstN = false then { s.resetBlock with rstN := true } else s

/-- Who moves next (R7): the first turn; with no turn left, the engine while a command runs (the weak fairness of R8) and the host otherwise (assumption 3). -/
def State.nextTurn (s : State) : Turn :=
  match s.turns with
  | t :: _ => t
  | [] => if s.phase = .run then .engine else .host

/-- The move of one turn. -/
def move (t : Turn) (s : State) : Outcome :=
  match t with
  | .host => hostMove s
  | .engine => engineMove s
  | .rstLow => .next (resetAssert s)
  | .rstHigh => .next (resetRelease s)

/-- The host presents the command word `v` next: the write of `CMD` before everything else it still has to do, its turn first. -/
def State.presentCommand (s : State) (v : Word) : State :=
  { s with host := .bus (.write 0x0010 4 v) :: s.host, turns := .host :: s.turns }

/-- The port ready to take a command: `rst_n` at 1 and no command in progress (R27, R240). -/
def State.portReady (s : State) : State := { s.toIdle with rstN := true }

/-- The instruction whose bits are `w`, presented so that the very next step runs it: an idle engine out of reset, and the write of `CMD` as the next host line with the host's turn first (assumption 6). -/
def State.placeCommand (s : State) (nbits w : Nat) : State :=
  s.portReady.presentCommand (BitVec.ofNat 32 (w % 2 ^ nbits))

end Sys2Proof.Machine
end

