-- ==== Sys2Proof/Machine/Step.lean ====
section
/-! DEFINITION. The step of the machine: one move of one agent (R7), and where the next command word is placed. -/

namespace Sys2Proof.Machine

/-- One step: the next turn is used up and its agent makes one atomic move (R7, R70). -/
def step (s : State) : Host.Outcome State Fault Refusal := move s.nextTurn s.popTurn

/-- `s` with the instruction of `nbits` bits `w` stored where `step` fetches its next instruction: the host's next transaction, a write of `CMD` (R23, R27). -/
def State.withFetchWord (s : State) (nbits w : Nat) : State := s.placeCommand nbits w

end Sys2Proof.Machine
end

