-- ==== Sys2Proof/Machine/Port.lean ====
section
/-! DEFINITION. The signal-level form of a transaction (R75): the request signals and the transaction they present, when the port acknowledges, and what the answer puts on the output signals. `rst_n` is `State.rstN`. Clock cycles are not modelled (assumption 8); no other rule depends on this file. -/

namespace Sys2Proof.Machine

/-- The signals the host drives (R75). -/
structure PortRequest where
  /-- `bus_req`: 1 while the host presents a transaction, held until `bus_ack`. -/
  req : Bool
  /-- `bus_we`: 1 write, 0 read. -/
  we : Bool
  /-- `bus_size`: bytes of the transaction as a power of two. -/
  size : BitVec 2
  /-- `bus_addr`: byte address. -/
  addr : BitVec 14
  /-- `bus_wdata`: write data. -/
  wdata : Word
  deriving DecidableEq, Repr

/-- The bytes of a transaction: 1, 2, 4, 8 for `bus_size` 0, 1, 2, 3 (R75). -/
def PortRequest.bytes (r : PortRequest) : Nat := 2 ^ r.size.toNat

/-- The transaction the signals other than `bus_req` name (R75). -/
def PortRequest.txn (r : PortRequest) : Txn :=
  if r.we then .write r.addr.toNat r.bytes r.wdata else .read r.addr.toNat r.bytes

/-- The transaction the host presents with these signals; none while `bus_req` is 0 (R75). -/
def PortRequest.presented (r : PortRequest) : Option Txn := if r.req then some r.txn else none

/-- The signals `r` are a signal-level form of what the host presents in state `s` (R75). -/
def PortRequest.Drives (r : PortRequest) (s : State) : Prop := r.presented = s.presented

/-- `bus_req` in state `s`: 1 while the host presents a transaction (R75). -/
def State.busReq (s : State) : Bool := s.presented.isSome

/-- `bus_err`, valid with `bus_ack`: 1 means `err` (R75). -/
def Answer.busErr : Answer → Bool
  | .err => true
  | .okRead _ => false
  | .okWrite => false

/-- `bus_rdata`, valid with `bus_ack`: the read value, 0 when `bus_err = 1`; the spec gives it no value on an `ok` write (R75). -/
def Answer.busRdata : Answer → Option Word
  | .err => some 0
  | .okRead v => some v
  | .okWrite => none

/-- The answer the port gave in the step from `s` to `t`, if it answered in that step. -/
def newAnswer (s t : State) : Option Answer :=
  if t.answers.length = s.answers.length + 1 then t.answers.head? else none

/-- The signals the block drives in a step (R75). -/
structure PortOutputs where
  /-- `bus_ack`: 1 in the step in which the presented transaction is answered, and in that step only. -/
  ack : Bool
  /-- `bus_err`, which means something only with `bus_ack`. -/
  err : Option Bool
  /-- `bus_rdata`, valid only with `bus_ack`. -/
  rdata : Option Word
  /-- `irq`, the level after the step (R30). -/
  irq : Bool
  deriving DecidableEq, Repr

/-- The output signals of the step from `s` to `t` (R75). -/
def portOutputs (s t : State) : PortOutputs where
  ack := (newAnswer s t).isSome
  err := (newAnswer s t).map Answer.busErr
  rdata := (newAnswer s t).bind Answer.busRdata
  irq := t.irq

end Sys2Proof.Machine
end

