-- ==== Sys2Proof/Machine/Program.lean ====
section
/-! DEFINITION. The assembler notation of a host program (R108) and the expansion of its macros (R109) into the lines a host presents. -/

namespace Sys2Proof.Machine

/-- A line of a program: the primitive lines of R108 and the macros of R109. -/
inductive ProgLine where
  /-- `WR addr, value`. -/
  | wr (addr : Nat) (value : Word)
  /-- `RD addr`. -/
  | rd (addr : Nat)
  /-- A command line: it only issues the command. -/
  | command (i : Instr)
  /-- `LDX xi, value`. -/
  | ldx (i : RegSel) (value : Nat)
  /-- `STX xi`. -/
  | stx (i : RegSel)
  /-- `WAIT`. -/
  | wait
  /-- `ACK`. -/
  | ack
  /-- `ABORT`. -/
  | abort
  /-- `IEN d, e`. -/
  | ien (d e : Bool)
  deriving DecidableEq, Repr

/-- A line that may be written down: `LDX` needs `value < 2^W` (R109). -/
def ProgLine.wellFormed (p : Config.Params) : ProgLine → Bool
  | .ldx _ value => decide (value < 2 ^ p.W)
  | _ => true

/-- `WR addr, value` as a host line (R108). -/
def wrLine (addr : Nat) (value : Word) : HostLine := .bus (.write addr 4 value)

/-- `RD addr` as a host line (R108). -/
def rdLine (addr : Nat) : HostLine := .bus (.read addr 4)

/-- The host lines of one program line, macros expanded (R108, R109). `WAIT` and the second half of `ABORT` stay lines of their own, since they depend on an answer. -/
def ProgLine.expand (p : Config.Params) : ProgLine → List HostLine
  | .wr addr value => [wrLine addr value]
  | .rd addr => [rdLine addr]
  | .command i => [wrLine 0x0010 (encode i)]
  | .ldx i value => (List.range p.L).map fun j => wrLine (xaddr i j) (limb value j)
  | .stx i => (List.range p.L).map fun j => rdLine (xaddr i j)
  | .wait => [.wait]
  | .ack => [wrLine 0x000C 6]
  | .abort => [rdLine 0x0008, .abortWrite]
  | .ien d e => [wrLine 0x0008 (BitVec.ofNat 32 (bit d + 2 * bit e))]

/-- The host lines of a program, in order (R108). -/
def assemble (p : Config.Params) (prog : List ProgLine) : List HostLine :=
  prog.flatMap fun l => l.expand p

/-- The value of the answers of an `STX`, oldest answer first: `sum of answer_j * 2^(32*j)` (R109). `none` where an answer is no `ok(v)`. -/
def stxValue : List Answer → Option Nat
  | [] => some 0
  | .okRead v :: rest => (stxValue rest).map fun n => v.toNat + 2 ^ 32 * n
  | _ :: _ => none

end Sys2Proof.Machine
end

