-- ==== Sys2Proof/Safety.lean ====
section
/-! DEFINITION. What counts as a safe state and a safe run: the invariant of the block (R20, R31, R33, R210, R240), a command run that ends after `T` engine steps (R46, R49), and the big-step results (R11). -/

namespace Sys2Proof.Machine

/-- The working registers `wk` have the shape R33 fixes for the opcode `op`, hold `W`-bit values, and stand in the relation their loop keeps: the gcd of the two operands for `LCM` (R151), the size of the signed coefficients for `MODINV` with `md > 0` (R174; assumption 7 for `md = 0`). -/
def Work.Fits (W : Nat) (op : Opcode) : Work → Prop
  | .none => False
  | .exp acc bs ex md => op = 1 ∧ acc < 2 ^ W ∧ bs < 2 ^ W ∧ ex < 2 ^ W ∧ md < 2 ^ W
  | .inv r0 r1 t0 t1 md => op = 2 ∧ r0 < 2 ^ W ∧ r1 < 2 ^ W ∧ md < 2 ^ W ∧
      (md ≠ 0 → 0 < r0 ∧ t0.natAbs ≤ md ∧ t0 * t1 ≤ 0 ∧ t1.natAbs * r0 + t0.natAbs * r1 = md)
  | .gcd u v => op = 3 ∧ u < 2 ^ W ∧ v < 2 ^ W
  | .lcm u v pa pb => op = 4 ∧ u < 2 ^ W ∧ v < 2 ^ W ∧ pa < 2 ^ W ∧ pb < 2 ^ W ∧ Nat.gcd u v = Nat.gcd pa pb
  | .clr => op = 5

/-- The invariant of the block. -/
structure State.Inv (s : State) : Prop where
  /-- `W` is a legal width (R4). -/
  legal : s.params.Legal
  /-- Every register holds a `W`-bit value (R20, R21). -/
  bounded : ∀ i : RegSel, s.readX i < 2 ^ s.params.W
  /-- `phase = RUN` implies `DONE = 0` and `ERR = 0` (R31 a). -/
  running : s.phase = .run → s.done = false ∧ s.err = false
  /-- `DONE` and `ERR` are never both 1 (R31 b). -/
  exclusive : ¬(s.done = true ∧ s.err = true)
  /-- `ERRCODE != 0` exactly when `ERR = 1` (R31 c). -/
  coded : s.errcode ≠ 0 ↔ s.err = true
  /-- Codes 6 to 15 are never produced (R210). -/
  codeRange : s.errcode.toNat ≤ 5
  /-- `phase = IDLE` implies `cur = {0, 0}` (R32) and `wk = WkNone` (R31 d). -/
  quiet : s.phase = .idle → s.cur = ⟨0, 0⟩ ∧ s.wk = .none
  /-- `phase = RUN` implies that `wk` has the shape of `cur.op` (R33). -/
  shaped : s.phase = .run → s.wk.Fits s.params.W s.cur.op
  /-- While `rst_n` is 0 the block has its values of R50 (R240). -/
  held : s.rstN = false → s.resetBlock = s

/-- From the running state `t` the command ends in `u` with engine step number `T`, and not before (R46, R49). -/
def EndsAfter (T : Nat) (t u : State) : Prop :=
  engineSteps T t = .next u ∧ u.phase = .idle ∧
    ∀ k, k < T → ∃ v, engineSteps k t = .next v ∧ v.phase = .run

/-- The big-step result of a command accepted in state `s`, as the family files state it (R131, R171, R151, R156, R190), without the engine's loop. The inverse of R171 is given by Mathlib's Bezout coefficient. -/
def bigStep (i : Instr) (s : State) : StepResult :=
  match i with
  | .modexp _ rs1 rs2 rs3 =>
    if s.readX rs3 = 0 then .fault .modZero
    else .complete (s.readX rs1 ^ s.readX rs2 % s.readX rs3)
  | .modinv _ rs1 rs2 =>
    if s.readX rs2 = 0 then .fault .modZero
    else if Nat.gcd (s.readX rs1) (s.readX rs2) ≠ 1 then .fault .notCoprime
    else .complete (emod (Nat.gcdA (s.readX rs1) (s.readX rs2)) (s.readX rs2))
  | .gcd _ rs1 rs2 => .complete (Nat.gcd (s.readX rs1) (s.readX rs2))
  | .lcm _ rs1 rs2 =>
    if s.readX rs1 = 0 ∧ s.readX rs2 = 0 then .fault .lcmZero
    else if 2 ^ s.params.W ≤ s.readX rs1 * s.readX rs2 / Nat.gcd (s.readX rs1) (s.readX rs2) then .fault .overflow
    else .complete (s.readX rs1 * s.readX rs2 / Nat.gcd (s.readX rs1) (s.readX rs2))
  | .clr _ => .complete 0

/-- The number `T` of engine steps of a command accepted in state `s` (the table of R46). -/
def stepCount (i : Instr) (s : State) : Nat :=
  match i with
  | .modexp _ _ rs2 rs3 => if s.readX rs3 = 0 then 1 else bitlen (s.readX rs2) + 1
  | .modinv _ rs1 rs2 => if s.readX rs2 = 0 then 1 else euclidIters (s.readX rs2) (s.readX rs1) + 1
  | .gcd _ rs1 rs2 => euclidIters (s.readX rs1) (s.readX rs2) + 1
  | .lcm _ rs1 rs2 =>
    if s.readX rs1 = 0 ∧ s.readX rs2 = 0 then 1 else euclidIters (s.readX rs1) (s.readX rs2) + 1
  | .clr _ => 1

/-- A host line that may abort a command: the second half of `ABORT`, or a `CTRL` write with bit 4 set (R191). -/
def HostLine.aborts : HostLine → Bool
  | .abortWrite => true
  | .bus (.write addr _ v) => addr == 0x0008 && v.getLsbD 4
  | .bus (.read _ _) => false
  | .wait => false

/-- A run of `k` steps that no fault and no refusal stops. -/
def SafeRun (k : Nat) (s : State) : Prop := ∃ t, Host.Core.run core k s = .next t

end Sys2Proof.Machine
end

