-- ==== Sys2Proof/Certificates/Slice0/Obligations.lean ====
section
/-! DEFINITION. The statements about the MODEXP engine for the provers, from the numbered rules of spec/. -/

open Sys2Proof Sys2Proof.Machine

/-! ## Command words (30_encoding) -/

/-- Decoding the word of a command gives that command back, every operand at every value (R102, R106). -/
def Obligations.DecodeEncodeRoundTrip : Prop :=
  ∀ i : Instr, decode (encode i) = .ok i

/-- A word that decodes is exactly the word R102's formula gives its command: no other word means the same. -/
def Obligations.DecodedWordIsTheEncoding : Prop :=
  ∀ (w : Word) (i : Instr), decode w = .ok i → encode i = w

/-- R102 and R103: a word decodes to a command of a row exactly when `w and mask = match` for that row, and is illegal when no row selects it. -/
def Obligations.DecodeAgreesWithMaskAndMatch : Prop :=
  ∀ w : Word,
    (∀ r ∈ opcodeMap, r.selects w = true ↔ ∃ i, decode w = .ok i ∧ i.row = r) ∧
    ((∃ e, decode w = .error e) ↔ ∀ r ∈ opcodeMap, r.selects w = false)

/-- R103: the illegal words are exactly those its list names (an undefined opcode, a reserved bit set, an unused selector not 0). -/
def Obligations.IllegalWordsAreThoseListed : Prop :=
  ∀ w : Word, (∃ e, decode w = .error e) ↔ ¬ CommandWord.WellFormed w

/-- R106: `Decode(w)` field by field, and the number of legal words. -/
def Obligations.DecodeReadsTheFields : Prop :=
  (∀ (w : Word) (rd rs1 rs2 rs3 : RegSel),
    let reservedClear := w[7] = false ∧ w[11] = false ∧ w[15] = false ∧ w.extractLsb 31 19 = 0
    let rdIs := (w.extractLsb 6 4).toNat = rd.val
    let rs1Is := (w.extractLsb 10 8).toNat = rs1.val
    let rs2Is := (w.extractLsb 14 12).toNat = rs2.val
    let rs3Is := (w.extractLsb 18 16).toNat = rs3.val
    (decode w = .ok (.modexp rd rs1 rs2 rs3) ↔
      reservedClear ∧ w.extractLsb 3 0 = 1 ∧ rdIs ∧ rs1Is ∧ rs2Is ∧ rs3Is) ∧
    (decode w = .ok (.modinv rd rs1 rs2) ↔
      reservedClear ∧ w.extractLsb 3 0 = 2 ∧ rdIs ∧ rs1Is ∧ rs2Is ∧ w.extractLsb 18 16 = 0) ∧
    (decode w = .ok (.gcd rd rs1 rs2) ↔
      reservedClear ∧ w.extractLsb 3 0 = 3 ∧ rdIs ∧ rs1Is ∧ rs2Is ∧ w.extractLsb 18 16 = 0) ∧
    (decode w = .ok (.lcm rd rs1 rs2) ↔
      reservedClear ∧ w.extractLsb 3 0 = 4 ∧ rdIs ∧ rs1Is ∧ rs2Is ∧ w.extractLsb 18 16 = 0) ∧
    (decode w = .ok (.clr rd) ↔
      reservedClear ∧ w.extractLsb 3 0 = 5 ∧ rdIs ∧
        w.extractLsb 10 8 = 0 ∧ w.extractLsb 14 12 = 0 ∧ w.extractLsb 18 16 = 0)) ∧
  Nat.card {w : Word // ∃ i, decode w = .ok i} = 5640

/-- R110: the worked encodings, both directions, and its six illegal words. -/
def Obligations.WorkedEncodings : Prop :=
  (∀ p ∈ ([(.modexp 3 0 1 2, 0x00021031), (.modexp 5 3 4 2, 0x00024351), (.modexp 0 0 0 0, 0x00000001),
      (.modexp 7 7 7 7, 0x00077771), (.modinv 5 2 3, 0x00003252), (.gcd 4 2 3, 0x00003243),
      (.lcm 3 0 1, 0x00001034), (.clr 0, 0x00000005), (.clr 7, 0x00000075)] : List (Instr × Word)),
    encode p.1 = p.2 ∧ decode p.2 = .ok p.1) ∧
  (∀ w ∈ ([0x00000000, 0x00000006, 0x00013243, 0x00000105, 0x000210B1, 0x000A1031] : List Word),
    ¬ ∃ i, decode w = .ok i)

/-! ## The `CMD` write (10_state R40, R41) and the step that runs a command -/

/-- R40: the accepting `CMD` write of any legal word, all of its effect at once. -/
def Obligations.AcceptLatchesAndStarts : Prop :=
  ∀ (s : State) (w : Word) (i : Instr), s.phase = .idle → decode w = .ok i →
    memWrite s 0x0010 4 w = .next { s with
      done := false, err := false, errcode := 0, cur := ⟨i.opcode, i.rd⟩, wk := initOp i s, phase := .run,
      answers := .okWrite :: s.answers }

/-- R41: an illegal word written while idle is recorded in `STATUS` and starts nothing. -/
def Obligations.IllegalWordIsRecorded : Prop :=
  ∀ (s : State) (w : Word), s.phase = .idle → (¬ ∃ i, decode w = .ok i) →
    memWrite s 0x0010 4 w = .next { s with
      done := false, err := true, errcode := 1, answers := .okWrite :: s.answers }

/-- R68 and R27: while a command runs every command, and every word at all, is turned away with `err` and no other effect. -/
def Obligations.CommandTurnedAwayWhileBusy : Prop :=
  ∀ (s : State), s.phase = .run →
    (∀ i : Instr, exec i s = .next { s with answers := .err :: s.answers }) ∧
    (∀ w : Word, memWrite s 0x0010 4 w = .next { s with answers := .err :: s.answers })

/-- The step of a host whose next line is the `CMD` write of a legal word is `exec` of the decoded command, the line and the turn used up; the same for a word placed by `withFetchWord`, which first makes the port ready. That placing is the model's choice (assumption 6), and so is who moves when no turn is listed (assumption 3). -/
def Obligations.StepRunsTheDecodedCommand : Prop :=
  (∀ (s : State) (w : Word) (i : Instr) (rest : List HostLine),
    s.nextTurn = .host → s.rstN = true → s.phase = .idle →
    s.host = .bus (.write 0x0010 4 w) :: rest → decode w = .ok i →
    step s = exec i { s with host := rest, turns := s.turns.tail }) ∧
  (∀ (s : State) (nbits w : Nat) (i : Instr), decodeTableWord nbits w = some i →
    step (s.withFetchWord nbits w) =
      exec i { s with phase := .idle, cur := ⟨0, 0⟩, wk := .none, rstN := true })

/-- What a command's `CMD` write leaves alone: the parameters, every register, the enables, the reset input, the host's lines and turns; the port gives exactly one answer. -/
def Obligations.CommandWriteFrame : Prop :=
  ∀ (i : Instr) (s t : State), exec i s = .next t →
    t.params = s.params ∧ (∀ r : RegSel, t.readX r = s.readX r) ∧
    t.ieDone = s.ieDone ∧ t.ieErr = s.ieErr ∧ t.rstN = s.rstN ∧ t.host = s.host ∧ t.turns = s.turns ∧
    ∃ a, t.answers = a :: s.answers

/-! ## The engine (10_state R42 to R46) -/

/-- R43: in every reachable kind of RUN state the engine's step is exactly one of Continue, Complete of a `W`-bit value, Fault with a code 2 to 5. -/
def Obligations.EngineStepHasThreeOutcomes : Prop :=
  ∀ s : State, s.Inv → s.phase = .run →
    ∃ r, stepOp s.params.W s.cur.op s.wk = some r ∧
      match r with
      | .cont wk => engineStep s = .next { s with wk := wk }
      | .complete v => v < 2 ^ s.params.W ∧ engineStep s = .next (s.complete v)
      | .fault c => 2 ≤ c.code.toNat ∧ c.code.toNat ≤ 5 ∧ engineStep s = .next (s.raiseFault c)

/-- R44: a completing step writes the destination register, sets `DONE`, ends the run, and nothing else; `STATUS` then reads 2. -/
def Obligations.CompleteWritesTheDestination : Prop :=
  ∀ (s : State) (v : Nat), s.Inv → s.phase = .run → stepOp s.params.W s.cur.op s.wk = some (.complete v) →
    ∃ t, engineStep s = .next t ∧
      t = { s with x := s.x.set s.cur.rd v, done := true, phase := .idle, cur := ⟨0, 0⟩, wk := .none } ∧
      t.err = false ∧ t.errcode = 0 ∧ memRead t 0x000C 4 = .okRead 0x00000002

/-- R45: a faulting step records the code, ends the run, and writes no register; `STATUS` then reads `4 + 256*code`. -/
def Obligations.FaultWritesNoRegister : Prop :=
  ∀ (s : State) (c : FaultCode), s.Inv → s.phase = .run → stepOp s.params.W s.cur.op s.wk = some (.fault c) →
    ∃ t, engineStep s = .next t ∧
      t = { s with err := true, errcode := c.code, phase := .idle, cur := ⟨0, 0⟩, wk := .none } ∧
      t.done = false ∧ memRead t 0x000C 4 = .okRead (BitVec.ofNat 32 (4 + 256 * c.code.toNat))

/-- What any engine step leaves alone: the parameters, every register but the destination, the enables, the reset input, the host, its answers and the turns; while idle, everything (R42, R22). -/
def Obligations.EngineStepFrame : Prop :=
  ∀ s t : State, engineStep s = .next t →
    (s.phase = .idle → t = s) ∧
    (∀ r : RegSel, r ≠ s.cur.rd → t.readX r = s.readX r) ∧
    (t.readX s.cur.rd ≠ s.readX s.cur.rd → t.done = true ∧ t.phase = .idle) ∧
    t.params = s.params ∧ t.ieDone = s.ieDone ∧ t.ieErr = s.ieErr ∧ t.rstN = s.rstN ∧
    t.host = s.host ∧ t.answers = s.answers ∧ t.turns = s.turns

/-- R46: every command in progress ends, from every RUN state of the invariant. -/
def Obligations.EveryRunningCommandEnds : Prop :=
  ∀ s : State, s.Inv → s.phase = .run → ∃ T u, EndsAfter T s u

/-- R46: the bound on Euclidean iterations. -/
def Obligations.EuclidIterationBound : Prop :=
  ∀ a b : Nat, euclidIters a b ≤ 2 * bitlen (min a b) + 1

/-! ## The results of the five commands -/

/-- R131: `MODEXP`, from its acceptance to its end. -/
def Obligations.ModexpResult : Prop :=
  ∀ (s : State) (rd rs1 rs2 rs3 : RegSel), s.phase = .idle →
    let b := s.readX rs1
    let e := s.readX rs2
    let m := s.readX rs3
    ∃ t u, exec (.modexp rd rs1 rs2 rs3) s = .next t ∧ t.phase = .run ∧ t.answers = .okWrite :: s.answers ∧
      (m = 0 → EndsAfter 1 t u ∧
        u = { s with
            done := false, err := true, errcode := 2, phase := .idle, cur := ⟨0, 0⟩, wk := .none,
            answers := .okWrite :: s.answers }) ∧
      (m ≠ 0 → EndsAfter (bitlen e + 1) t u ∧ b ^ e % m < m ∧
        u = { s with
            x := s.x.set rd (b ^ e % m), done := true, err := false, errcode := 0,
            phase := .idle, cur := ⟨0, 0⟩, wk := .none, answers := .okWrite :: s.answers })

/-- R171 and R175: `MODINV`, from its acceptance to its end; the inverse is unique. -/
def Obligations.ModinvResult : Prop :=
  ∀ (s : State) (rd rs1 rs2 : RegSel), s.phase = .idle →
    let a := s.readX rs1
    let n := s.readX rs2
    ∃ t u, exec (.modinv rd rs1 rs2) s = .next t ∧ t.phase = .run ∧ t.answers = .okWrite :: s.answers ∧
      (n = 0 → EndsAfter 1 t u ∧
        u = { s with
            done := false, err := true, errcode := 2, phase := .idle, cur := ⟨0, 0⟩, wk := .none,
            answers := .okWrite :: s.answers }) ∧
      (n ≠ 0 → Nat.gcd a n ≠ 1 → EndsAfter (euclidIters n a + 1) t u ∧
        u = { s with
            done := false, err := true, errcode := 3, phase := .idle, cur := ⟨0, 0⟩, wk := .none,
            answers := .okWrite :: s.answers }) ∧
      (n ≠ 0 → Nat.gcd a n = 1 → EndsAfter (euclidIters n a + 1) t u ∧
        ∃ r, r < n ∧ a * r % n = 1 % n ∧ (∀ r', r' < n → a * r' % n = 1 % n → r' = r) ∧
          u = { s with
              x := s.x.set rd r, done := true, err := false, errcode := 0,
              phase := .idle, cur := ⟨0, 0⟩, wk := .none, answers := .okWrite :: s.answers })

/-- R151: `GCD`, from its acceptance to its end, with the loop's invariant. -/
def Obligations.GcdResult : Prop :=
  ∀ (s : State) (rd rs1 rs2 : RegSel), s.phase = .idle →
    let a := s.readX rs1
    let b := s.readX rs2
    ∃ t u g, exec (.gcd rd rs1 rs2) s = .next t ∧ t.phase = .run ∧ t.answers = .okWrite :: s.answers ∧
      EndsAfter (euclidIters a b + 1) t u ∧
      u = { s with
          x := s.x.set rd g, done := true, err := false, errcode := 0,
          phase := .idle, cur := ⟨0, 0⟩, wk := .none, answers := .okWrite :: s.answers } ∧
      (a = 0 ∧ b = 0 → g = 0) ∧
      (¬(a = 0 ∧ b = 0) → g ∣ a ∧ g ∣ b ∧ ∀ d, d ∣ a → d ∣ b → d ≤ g) ∧
      (∀ k, k ≤ euclidIters a b → ∃ v p q, engineSteps k t = .next v ∧ v.wk = .gcd p q ∧ Nat.gcd p q = Nat.gcd a b)

/-- R156: `LCM`, from its acceptance to its end. -/
def Obligations.LcmResult : Prop :=
  ∀ (s : State) (rd rs1 rs2 : RegSel), s.phase = .idle →
    let a := s.readX rs1
    let b := s.readX rs2
    let l := a * b / Nat.gcd a b
    ∃ t u, exec (.lcm rd rs1 rs2) s = .next t ∧ t.phase = .run ∧ t.answers = .okWrite :: s.answers ∧
      (a = 0 ∧ b = 0 → EndsAfter 1 t u ∧
        u = { s with
            done := false, err := true, errcode := 4, phase := .idle, cur := ⟨0, 0⟩, wk := .none,
            answers := .okWrite :: s.answers }) ∧
      (¬(a = 0 ∧ b = 0) → 2 ^ s.params.W ≤ l → EndsAfter (euclidIters a b + 1) t u ∧
        u = { s with
            done := false, err := true, errcode := 5, phase := .idle, cur := ⟨0, 0⟩, wk := .none,
            answers := .okWrite :: s.answers }) ∧
      (¬(a = 0 ∧ b = 0) → l < 2 ^ s.params.W → EndsAfter (euclidIters a b + 1) t u ∧
        u = { s with
            x := s.x.set rd l, done := true, err := false, errcode := 0,
            phase := .idle, cur := ⟨0, 0⟩, wk := .none, answers := .okWrite :: s.answers }) ∧
      Nat.gcd a b ∣ a * b ∧
      (¬(a = 0 ∧ b = 0) → a = 0 ∨ b = 0 → l = 0) ∧
      (0 < a → 0 < b → 0 < l ∧ a ∣ l ∧ b ∣ l ∧ ∀ m, 0 < m → a ∣ m → b ∣ m → l ≤ m)

/-- R190: `CLR`, from its acceptance to its end: one step, `x[rd]` 0, nothing read. -/
def Obligations.ClrResult : Prop :=
  ∀ (s : State) (rd : RegSel), s.phase = .idle →
    ∃ t u, exec (.clr rd) s = .next t ∧ t.phase = .run ∧ t.answers = .okWrite :: s.answers ∧
      t.done = false ∧ t.err = false ∧ t.errcode = 0 ∧ EndsAfter 1 t u ∧
      u = { s with
          x := s.x.set rd 0, done := true, err := false, errcode := 0,
          phase := .idle, cur := ⟨0, 0⟩, wk := .none, answers := .okWrite :: s.answers } ∧
      ∀ j, limb (u.readX rd) j = 0

/-- R46 and R11: every command, run step by step, ends after exactly the `T` of the table of R46 and in the state its big-step result gives. -/
def Obligations.StepsReachTheBigStepResult : Prop :=
  ∀ (i : Instr) (s : State), s.phase = .idle →
    ∃ t u, exec i s = .next t ∧ EndsAfter (stepCount i s) t u ∧
      u = ((s.accept i.opcode i.rd (initOp i s)).respond .okWrite).apply (bigStep i s)

/-- R132: the loop invariant of `MODEXP` in every RUN state of the run. -/
def Obligations.ModexpLoopInvariant : Prop :=
  ∀ (s t : State) (rd rs1 rs2 rs3 : RegSel), s.phase = .idle → s.readX rs3 ≠ 0 →
    exec (.modexp rd rs1 rs2 rs3) s = .next t →
    let b := s.readX rs1
    let e := s.readX rs2
    let m := s.readX rs3
    ∀ k, k ≤ bitlen e → ∃ v acc bs ex, engineSteps k t = .next v ∧ v.phase = .run ∧ v.wk = .exp acc bs ex m ∧
      acc * bs ^ ex % m = b ^ e % m ∧ (0 < k → bs < m) ∧
      (e % 2 ^ k = 0 → acc = 1) ∧ (e % 2 ^ k ≠ 0 → acc < m) ∧
      (k < bitlen e ↔ ex ≠ 0)

/-- R172: the loop invariant of `MODINV` in every RUN state of the run. -/
def Obligations.ModinvLoopInvariant : Prop :=
  ∀ (s t : State) (rd rs1 rs2 : RegSel), s.phase = .idle → s.readX rs2 ≠ 0 →
    exec (.modinv rd rs1 rs2) s = .next t →
    let a := s.readX rs1
    let n := s.readX rs2
    ∀ k, k ≤ euclidIters n a → ∃ v r0 r1 t0 t1, engineSteps k t = .next v ∧ v.phase = .run ∧
      v.wk = .inv r0 r1 t0 t1 n ∧ (n : Int) ∣ t0 * a - r0 ∧ (n : Int) ∣ t1 * a - r1 ∧
      Nat.gcd r0 r1 = Nat.gcd n a ∧ (k < euclidIters n a ↔ r1 ≠ 0)

/-- R174: the signed coefficients of `MODINV` never exceed the modulus, and the final one is below it, so that one addition reduces it. The modulus 0 is left out (assumption 7). -/
def Obligations.ModinvCoefficientsBounded : Prop :=
  ∀ (s t : State) (rd rs1 rs2 : RegSel), s.phase = .idle → s.readX rs2 ≠ 0 →
    exec (.modinv rd rs1 rs2) s = .next t →
    ∀ k, k ≤ euclidIters (s.readX rs2) (s.readX rs1) → ∃ v r0 r1 t0 t1, engineSteps k t = .next v ∧
      v.wk = .inv r0 r1 t0 t1 (s.readX rs2) ∧ t0.natAbs ≤ s.readX rs2 ∧ t1.natAbs ≤ s.readX rs2 ∧
      (r1 = 0 → r0 = 1 → 2 ≤ s.readX rs2 → t0.natAbs < s.readX rs2)

/-- R157: when the operand lengths add up to at most `W`, the least common multiple fits and `LCM` completes with it. -/
def Obligations.LcmFitsWhenLengthsFit : Prop :=
  ∀ (s : State) (rd rs1 rs2 : RegSel), s.phase = .idle →
    bitlen (s.readX rs1) + bitlen (s.readX rs2) ≤ s.params.W →
    ¬(s.readX rs1 = 0 ∧ s.readX rs2 = 0) →
    ∃ t u T, exec (.lcm rd rs1 rs2) s = .next t ∧ EndsAfter T t u ∧ u.done = true ∧ u.err = false ∧
      u.readX rd = Nat.lcm (s.readX rs1) (s.readX rs2)

/-- R51: a command's end depends only on its word, the width and the values of its source registers: two machines that agree on these end alike, whatever else differs. -/
def Obligations.ResultDependsOnlyOnSources : Prop :=
  ∀ (i : Instr) (s s' : State), s.phase = .idle → s'.phase = .idle → s.params.W = s'.params.W →
    (∀ r ∈ i.sources, s.readX r = s'.readX r) →
    ∃ T t t' u u', exec i s = .next t ∧ exec i s' = .next t' ∧ EndsAfter T t u ∧ EndsAfter T t' u' ∧
      u.done = u'.done ∧ u.err = u'.err ∧ u.errcode = u'.errcode ∧
      (u.done = true → u.readX i.rd = u'.readX i.rd)

/-- R48, R51, R7: however the host's transactions and the engine's steps interleave, a running command that is neither aborted nor reset goes through the same working registers and ends in the same registers and flags as when the engine runs alone. `k` counts the engine's turns among the first `n`; the list of turns is the model's form of the interleaving (assumption 3). -/
def Obligations.InterleavingCannotChangeTheResult : Prop :=
  ∀ (n T : Nat) (s t u : State), s.Inv → s.phase = .run → s.rstN = true →
    (∀ l ∈ s.host, l.aborts = false) → n ≤ s.turns.length →
    (∀ a ∈ s.turns.take n, a = .host ∨ a = .engine) →
    EndsAfter T s u → Host.Core.run core n s = .next t →
    let k := (s.turns.take n).count .engine
    (k < T → t.phase = .run ∧ t.x = s.x ∧ t.cur = s.cur ∧ ∃ v, engineSteps k s = .next v ∧ t.wk = v.wk) ∧
    (k = T → (s.turns.take n).getLast? = some .engine →
      t.phase = .idle ∧ t.x = u.x ∧ t.done = u.done ∧ t.err = u.err ∧ t.errcode = u.errcode)

/-- R211: a fault is precise: after a command that ends in a fault every register is as before the command, `DONE` is 0, and the same destination can be tried again. -/
def Obligations.FaultsArePrecise : Prop :=
  ∀ (i : Instr) (s t u : State) (T : Nat), s.phase = .idle → exec i s = .next t → EndsAfter T t u →
    u.err = true → u.x = s.x ∧ u.done = false ∧ u.phase = .idle ∧ u.cur = ⟨0, 0⟩ ∧ u.wk = .none ∧
      2 ≤ u.errcode.toNat ∧ u.errcode.toNat ≤ 5 ∧ u.irq = s.ieErr

/-! ## The bus (20_memory, 43_control) -/

/-- R213: the transactions answered `err` are exactly those listed, and an `err` changes nothing (the host's own record of answers apart). -/
def Obligations.BusErrorsExactly : Prop :=
  ∀ (s : State) (addr n : Nat) (v : Word),
    let wrongAccess := n ≠ 4 ∨ addr % 4 ≠ 0
    let unmapped := (0x0014 ≤ addr ∧ addr ≤ 0x0FFF) ∨ 0x3000 ≤ addr
    let window := 0x1000 ≤ addr ∧ addr ≤ 0x2FFF
    let noSuchLimb := window ∧ s.params.L ≤ windowLimb addr
    let windowWhileBusy := window ∧ s.phase = .run
    (transact s (.read addr n) = .next { s with answers := .err :: s.answers } ↔
      wrongAccess ∨ unmapped ∨ noSuchLimb ∨ windowWhileBusy) ∧
    ((∃ t, transact s (.write addr n v) = .next t ∧ t.answers = .err :: s.answers) ↔
      wrongAccess ∨ unmapped ∨ noSuchLimb ∨ windowWhileBusy ∨ addr = 0x0000 ∨ addr = 0x0004 ∨
        (addr = 0x0010 ∧ s.phase = .run)) ∧
    (∀ t, transact s (.write addr n v) = .next t → t.answers = .err :: s.answers →
      t = { s with answers := .err :: s.answers })

/-- R69: no read changes state: whatever its answer, only the host's record of answers grows, and the same read gives the same answer again. -/
def Obligations.ReadsHaveNoSideEffect : Prop :=
  ∀ (s t : State) (addr n addr' n' : Nat), transact s (.read addr n) = .next t →
    t = { s with answers := memRead s addr n :: s.answers } ∧ memRead t addr' n' = memRead s addr' n'

/-- R62: the offset of a limb, both ways, and what is read there while idle. -/
def Obligations.WindowAddressing : Prop :=
  (∀ (s : State) (i : RegSel) (j : Nat), s.params.Legal → j < s.params.L →
    0x1000 ≤ xaddr i j ∧ xaddr i j ≤ 0x2FFF ∧ xaddr i j % 4 = 0 ∧
    (BitVec.ofNat 14 (xaddr i j - 0x1000)).extractLsb 12 10 = BitVec.ofNat 3 i.val ∧
    (BitVec.ofNat 14 (xaddr i j - 0x1000)).extractLsb 9 2 = BitVec.ofNat 8 j ∧
    (s.phase = .idle → memRead s (xaddr i j) 4 = .okRead (BitVec.ofNat 32 (s.readX i / 2 ^ (32 * j))))) ∧
  (∀ addr, 0x1000 ≤ addr → addr ≤ 0x2FFF → addr % 4 = 0 → addr = xaddr (windowReg addr) (windowLimb addr))

/-- R63: a register is the sum of its limbs, limb 0 the least significant; the answers of an `STX` add up to it (R109). -/
def Obligations.RegisterIsTheSumOfItsLimbs : Prop :=
  ∀ (p : Config.Params) (v : Nat), p.Legal → v < 2 ^ p.W →
    ((List.range p.L).map fun j => (limb v j).toNat * 2 ^ (32 * j)).sum = v ∧
    stxValue ((List.range p.L).map fun j => .okRead (limb v j)) = some v

/-- R194 and R66: the limb write while idle: answered `ok`, it replaces that limb and no other bit of any register, touches no flag, and is read back. -/
def Obligations.LimbWriteReplacesOneLimb : Prop :=
  ∀ (s : State) (i : RegSel) (j : Nat) (d : Word), s.params.Legal → j < s.params.L → s.phase = .idle →
    ∃ t, memWrite s (xaddr i j) 4 d = .next t ∧
      t = { s with x := s.x.set i (setlimb (s.x[i]) j d), answers := .okWrite :: s.answers } ∧
      (∀ (r : RegSel) (k : Nat), limb (t.readX r) k = if r = i ∧ k = j then d else limb (s.readX r) k) ∧
      memRead t (xaddr i j) 4 = .okRead d ∧
      (s.readX i < 2 ^ s.params.W → t.readX i < 2 ^ s.params.W)

/-- R244 and R109 (`LDX`): writing all `L` limbs of a value in ascending order leaves exactly that value, whatever the register held. -/
def Obligations.WritingAllLimbsLoadsTheValue : Prop :=
  ∀ (p : Config.Params) (old value : Nat), p.Legal → old < 2 ^ p.W → value < 2 ^ p.W →
    (List.range p.L).foldl (fun v j => setlimb v j (limb value j)) old = value

/-- R28 and R29: `ID` and `PARAM` read their constants in every state and phase, field by field, and a write to either is refused and changes nothing. -/
def Obligations.IdAndParamAreConstant : Prop :=
  ∀ (s : State) (v : Word), s.params.Legal →
    memRead s 0x0000 4 = .okRead 0x4D455850 ∧
    (∃ p : Word, memRead s 0x0004 4 = .okRead p ∧ p.toNat = 0x00080000 + s.params.W ∧
      (p.extractLsb 15 0).toNat = s.params.W ∧ (p.extractLsb 19 16).toNat = 8 ∧ p.extractLsb 31 20 = 0) ∧
    memWrite s 0x0000 4 v = .next { s with answers := .err :: s.answers } ∧
    memWrite s 0x0004 4 v = .next { s with answers := .err :: s.answers }

/-- R25 to R27, read side: the words `CTRL`, `STATUS` and `CMD` read in every state, bit by bit. -/
def Obligations.ControlRegistersRead : Prop :=
  ∀ s : State, ∃ ct st : Word,
    memRead s 0x0008 4 = .okRead ct ∧ memRead s 0x000C 4 = .okRead st ∧ memRead s 0x0010 4 = .okRead 0 ∧
    ct[0] = s.ieDone ∧ ct[1] = s.ieErr ∧ ct.extractLsb 31 2 = 0 ∧
    (st[0] = true ↔ s.phase = .run) ∧ st[1] = s.done ∧ st[2] = s.err ∧
    st.extractLsb 7 3 = 0 ∧ st.extractLsb 11 8 = s.errcode ∧ st.extractLsb 31 12 = 0

/-- R193: the `CTRL` write without abort: the two enables and nothing else, in either phase; `STATUS` reads as before. -/
def Obligations.EnablesWrite : Prop :=
  ∀ (s : State) (v : Word), v[4] = false →
    ∃ t, memWrite s 0x0008 4 v = .next t ∧
      t = { s with ieDone := v[0], ieErr := v[1], answers := .okWrite :: s.answers } ∧
      memRead t 0x000C 4 = memRead s 0x000C 4

/-- R191: the abort, in both phases. -/
def Obligations.AbortDiscardsTheCommand : Prop :=
  ∀ (s : State) (v : Word), s.Inv → v[4] = true →
    ∃ t, memWrite s 0x0008 4 v = .next t ∧
      (s.phase = .run → t = { s with
          ieDone := v[0], ieErr := v[1], phase := .idle, cur := ⟨0, 0⟩, wk := .none,
          answers := .okWrite :: s.answers } ∧ memRead t 0x000C 4 = .okRead 0 ∧ t.irq = false) ∧
      (s.phase = .idle → t = { s with ieDone := v[0], ieErr := v[1], answers := .okWrite :: s.answers } ∧
        memRead t 0x000C 4 = memRead s 0x000C 4)

/-- R192: the write-one-to-clear of `STATUS`, flag by flag, in either phase; while a command runs it changes nothing. -/
def Obligations.StatusWriteOneToClear : Prop :=
  ∀ (s : State) (v : Word),
    ∃ t, memWrite s 0x000C 4 v = .next t ∧
      t = { s with
        done := s.done && !v[1], err := s.err && !v[2], errcode := if v[2] then 0 else s.errcode,
        answers := .okWrite :: s.answers } ∧
      (s.Inv → s.phase = .run → t = { s with answers := .okWrite :: s.answers })

/-- R30 and R214: the level of `irq` after each event that can change it, from every state of the invariant: acceptance lowers it, completion and fault set it to their enable, an illegal word sets it to `IE_ERR`, clearing both flags lowers it. -/
def Obligations.InterruptFollowsTheFlags : Prop :=
  ∀ s : State, s.Inv →
    (s.irq = true ↔ (s.ieDone = true ∧ s.done = true) ∨ (s.ieErr = true ∧ s.err = true)) ∧
    (∀ i t, s.phase = .idle → exec i s = .next t → t.irq = false) ∧
    (∀ t, s.phase = .run → engineStep s = .next t → t.phase = .idle →
      t.irq = ((s.ieDone && t.done) || (s.ieErr && t.err)) ∧ t.done = !t.err) ∧
    (∀ w t, s.phase = .idle → (¬ ∃ i, decode w = .ok i) → memWrite s 0x0010 4 w = .next t → t.irq = s.ieErr) ∧
    (∀ t, memWrite s 0x000C 4 6 = .next t → t.irq = false)

/-- R75 and R64: the signal-level form: only `bus_size` 2 names an access that is not refused, and a refused one puts 0 on `bus_rdata` with `bus_err` 1 and changes nothing. -/
def Obligations.PortSizeMustBeFourBytes : Prop :=
  ∀ (s : State) (r : PortRequest), r.req = true → r.size ≠ 2 →
    ∃ x, r.presented = some x ∧ transact s x = .next { s with answers := .err :: s.answers } ∧
    Answer.busErr .err = true ∧ Answer.busRdata .err = some 0

/-- R75: with `bus_req` 0 nothing is presented; with `bus_req` 1 the other signals present every read and write of 1, 2, 4 or 8 bytes at a 14-bit address, and nothing else. -/
def Obligations.PortPresentsTransactions : Prop :=
  (∀ r : PortRequest, r.req = false → r.presented = none) ∧
  (∀ (addr n : Nat) (v : Word),
    (addr ≤ 0x3FFF ∧ (n = 1 ∨ n = 2 ∨ n = 4 ∨ n = 8) ↔
      ∃ r : PortRequest, r.req = true ∧ r.we = false ∧ r.presented = some (.read addr n)) ∧
    (addr ≤ 0x3FFF ∧ (n = 1 ∨ n = 2 ∨ n = 4 ∨ n = 8) ↔
      ∃ r : PortRequest, r.req = true ∧ r.we = true ∧ r.presented = some (.write addr n v)))

/-- R75 (`bus_req`, `bus_ack`, `bus_err`, `bus_rdata`, `irq`): a step acknowledges exactly when the host presents a transaction out of reset and it is the host's turn. Until then the same transaction stays presented, by the same signals, and nothing is answered. With `bus_ack` the presented transaction has been carried out, once, and its answer is on the outputs. That a host with lines left presents the next one at once is the model's choice (assumption 9), and that it stays presented while `rst_n` is 0 too (assumption 4). -/
def Obligations.PortHandshake : Prop :=
  ∀ s t : State, step s = .next t →
    ((portOutputs s t).ack = true ↔ s.busReq = true ∧ s.rstN = true ∧ s.nextTurn = .host) ∧
    ((portOutputs s t).ack = false → t.presented = s.presented ∧ t.busReq = s.busReq ∧ t.answers = s.answers) ∧
    ((portOutputs s t).ack = true → ∃ x a, s.presented = some x ∧ step s = transact s.popTurn.nextLine x ∧
      t.answers = a :: s.answers ∧ (portOutputs s t).err = some a.busErr ∧ (portOutputs s t).rdata = a.busRdata) ∧
    (∀ r : PortRequest, r.Drives s → r.req = s.busReq ∧ ((portOutputs s t).ack = false → r.Drives t)) ∧
    (portOutputs s t).irq = ((t.ieDone && t.done) || (t.ieErr && t.err))

/-- R109 (`WAIT`): a host turn at the line polls `STATUS`: while `BUSY` reads 1 the line stays, else it is done with. -/
def Obligations.WaitPollsUntilNotBusy : Prop :=
  ∀ (s : State) (rest : List HostLine), s.Inv → s.rstN = true → s.nextTurn = .host → s.host = .wait :: rest →
    (s.phase = .run → step s = .next { s with turns := s.turns.tail, answers := .okRead 1 :: s.answers }) ∧
    (s.phase = .idle → ∃ v : Word, v[0] = false ∧ memRead s 0x000C 4 = .okRead v ∧
      step s = .next { s with host := rest, turns := s.turns.tail, answers := .okRead v :: s.answers })

/-- R109 (`ABORT`): after the `CTRL` read of the macro its write aborts and keeps the enables. -/
def Obligations.AbortMacroKeepsTheEnables : Prop :=
  ∀ (s : State) (rest : List HostLine), s.rstN = true → s.phase = .run →
    s.host = rdLine 0x0008 :: .abortWrite :: rest → s.turns = [.host, .host] →
    Host.Core.run core 2 s = .next { s with
      phase := .idle, cur := ⟨0, 0⟩, wk := .none, host := rest, turns := [],
      answers := .okWrite :: memRead s 0x0008 4 :: s.answers }

/-! ## Reset (10_state R50, 70_reset R240) -/

/-- R50: the values after reset, read over the bus and in the state, for every legal width; a reset while a command runs discards it. -/
def Obligations.ResetValues : Prop :=
  ∀ s : State, s.params.Legal → s.turns = [.rstLow, .rstHigh] →
    ∃ t, Host.Core.run core 2 s = .next t ∧
      (∀ r : RegSel, t.readX r = 0) ∧ t.phase = .idle ∧ t.cur = ⟨0, 0⟩ ∧ t.wk = .none ∧ t.irq = false ∧
      t.ieDone = false ∧ t.ieErr = false ∧ t.done = false ∧ t.err = false ∧ t.errcode = 0 ∧
      memRead t 0x0000 4 = .okRead 0x4D455850 ∧
      memRead t 0x0004 4 = .okRead (BitVec.ofNat 32 (0x00080000 + s.params.W)) ∧
      memRead t 0x0008 4 = .okRead 0 ∧ memRead t 0x000C 4 = .okRead 0 ∧ memRead t 0x0010 4 = .okRead 0 ∧
      (∀ (i : RegSel) (j : Nat), j < s.params.L → memRead t (xaddr i j) 4 = .okRead 0) ∧
      { t with host := [], answers := [] } = State.resetAt s.params

/-- R240: while `rst_n` is 0 no step of the host or the engine changes anything: no transaction is answered and the block keeps its reset values. That a presented transaction stays presented is the model's choice (assumption 4). -/
def Obligations.HeldInReset : Prop :=
  ∀ s : State, s.Inv → s.rstN = false → s.nextTurn = .host ∨ s.nextTurn = .engine →
    step s = .next { s with turns := s.turns.tail }

/-! ## The whole machine -/

/-- The invariant holds after reset, at every legal width, in front of any host and any order of turns. -/
def Obligations.InvariantAtReset : Prop :=
  ∀ (p : Config.Params) (h : List HostLine) (ts : List Turn), p.Legal →
    State.Inv { State.resetAt p with host := h, turns := ts }

/-- R20, R21, R31, R32, R33, R174, R210, R240: every step keeps the invariant. -/
def Obligations.EveryStepKeepsTheInvariant : Prop :=
  ∀ s t : State, s.Inv → step s = .next t → t.Inv

/-- The invariant gives the status invariants of R31 word for word. -/
def Obligations.StatusInvariants : Prop :=
  ∀ (k : Nat) (s t : State), s.Inv → Host.Core.run core k s = .next t →
    (t.phase = .run → t.done = false ∧ t.err = false) ∧ ¬(t.done = true ∧ t.err = true) ∧
    (t.errcode ≠ 0 ↔ t.err = true) ∧ (t.phase = .idle → t.wk = .none)

/-- Nothing is stuck (93 Part 1): from every state of the invariant, every number of steps can be taken: no fault and no refusal stops the machine. -/
def Obligations.NoRunIsEverStopped : Prop :=
  ∀ (k : Nat) (s : State), s.Inv → SafeRun k s

/-- R4: no step changes the parameters. -/
def Obligations.WidthNeverChanges : Prop :=
  ∀ s t : State, step s = .next t → t.params = s.params

/-- R22 and R261: a register changes only by a completing engine step (the destination), by the host's limb write while idle (that register), or by reset. How a turn in reset is taken is the model's choice (assumption 4). -/
def Obligations.OnlyTheseChangeARegister : Prop :=
  ∀ (s t : State) (r : RegSel), step s = .next t → t.readX r ≠ s.readX r →
    (s.nextTurn = .engine ∧ s.phase = .run ∧ r = s.cur.rd ∧ t.done = true ∧ t.phase = .idle) ∨
    (s.nextTurn = .host ∧ s.phase = .idle ∧ ∃ j d rest, s.host = .bus (.write (xaddr r j) 4 d) :: rest ∧
      j < s.params.L ∧ t.readX r = setlimb (s.readX r) j d) ∨
    ((s.nextTurn = .rstLow ∨ s.rstN = false) ∧ t.readX r = 0)

/-- R68 and R22 a: while a command runs, no host step other than an abort changes a register, a flag or the engine (R68). -/
def Obligations.HostCannotDisturbARunningCommand : Prop :=
  ∀ s t : State, s.Inv → s.phase = .run → s.rstN = true → s.nextTurn = .host →
    (∀ l rest, s.host = l :: rest → l.aborts = false) → step s = .next t →
    t.x = s.x ∧ t.phase = .run ∧ t.cur = s.cur ∧ t.wk = s.wk ∧
    t.done = s.done ∧ t.err = s.err ∧ t.errcode = s.errcode
end

