-- ==== Sys2Proof/Laws/State.lean ====
section
/-! SUPPORT. The small lemmas of State: for every update of it, what each field holds afterwards, so that no proof unfolds a record update. -/

namespace Sys2Proof.Machine

variable (s : State)

@[simp] theorem State.writeX_params (i : RegSel) (v : Nat) : (s.writeX i v).params = s.params := rfl
@[simp] theorem State.writeX_x (i : RegSel) (v : Nat) : (s.writeX i v).x = s.x.set i v := rfl
@[simp] theorem State.writeX_ieDone (i : RegSel) (v : Nat) : (s.writeX i v).ieDone = s.ieDone := rfl
@[simp] theorem State.writeX_ieErr (i : RegSel) (v : Nat) : (s.writeX i v).ieErr = s.ieErr := rfl
@[simp] theorem State.writeX_done (i : RegSel) (v : Nat) : (s.writeX i v).done = s.done := rfl
@[simp] theorem State.writeX_err (i : RegSel) (v : Nat) : (s.writeX i v).err = s.err := rfl
@[simp] theorem State.writeX_errcode (i : RegSel) (v : Nat) : (s.writeX i v).errcode = s.errcode := rfl
@[simp] theorem State.writeX_phase (i : RegSel) (v : Nat) : (s.writeX i v).phase = s.phase := rfl
@[simp] theorem State.writeX_cur (i : RegSel) (v : Nat) : (s.writeX i v).cur = s.cur := rfl
@[simp] theorem State.writeX_wk (i : RegSel) (v : Nat) : (s.writeX i v).wk = s.wk := rfl
@[simp] theorem State.writeX_rstN (i : RegSel) (v : Nat) : (s.writeX i v).rstN = s.rstN := rfl
@[simp] theorem State.writeX_host (i : RegSel) (v : Nat) : (s.writeX i v).host = s.host := rfl
@[simp] theorem State.writeX_answers (i : RegSel) (v : Nat) : (s.writeX i v).answers = s.answers := rfl
@[simp] theorem State.writeX_turns (i : RegSel) (v : Nat) : (s.writeX i v).turns = s.turns := rfl

@[simp] theorem State.setEnables_params (v : Word) : (s.setEnables v).params = s.params := rfl
@[simp] theorem State.setEnables_x (v : Word) : (s.setEnables v).x = s.x := rfl
@[simp] theorem State.setEnables_ieDone (v : Word) : (s.setEnables v).ieDone = v.getLsbD 0 := rfl
@[simp] theorem State.setEnables_ieErr (v : Word) : (s.setEnables v).ieErr = v.getLsbD 1 := rfl
@[simp] theorem State.setEnables_done (v : Word) : (s.setEnables v).done = s.done := rfl
@[simp] theorem State.setEnables_err (v : Word) : (s.setEnables v).err = s.err := rfl
@[simp] theorem State.setEnables_errcode (v : Word) : (s.setEnables v).errcode = s.errcode := rfl
@[simp] theorem State.setEnables_phase (v : Word) : (s.setEnables v).phase = s.phase := rfl
@[simp] theorem State.setEnables_cur (v : Word) : (s.setEnables v).cur = s.cur := rfl
@[simp] theorem State.setEnables_wk (v : Word) : (s.setEnables v).wk = s.wk := rfl
@[simp] theorem State.setEnables_rstN (v : Word) : (s.setEnables v).rstN = s.rstN := rfl
@[simp] theorem State.setEnables_host (v : Word) : (s.setEnables v).host = s.host := rfl
@[simp] theorem State.setEnables_answers (v : Word) : (s.setEnables v).answers = s.answers := rfl
@[simp] theorem State.setEnables_turns (v : Word) : (s.setEnables v).turns = s.turns := rfl

@[simp] theorem State.clearDone_params : s.clearDone.params = s.params := rfl
@[simp] theorem State.clearDone_x : s.clearDone.x = s.x := rfl
@[simp] theorem State.clearDone_ieDone : s.clearDone.ieDone = s.ieDone := rfl
@[simp] theorem State.clearDone_ieErr : s.clearDone.ieErr = s.ieErr := rfl
@[simp] theorem State.clearDone_done : s.clearDone.done = false := rfl
@[simp] theorem State.clearDone_err : s.clearDone.err = s.err := rfl
@[simp] theorem State.clearDone_errcode : s.clearDone.errcode = s.errcode := rfl
@[simp] theorem State.clearDone_phase : s.clearDone.phase = s.phase := rfl
@[simp] theorem State.clearDone_cur : s.clearDone.cur = s.cur := rfl
@[simp] theorem State.clearDone_wk : s.clearDone.wk = s.wk := rfl
@[simp] theorem State.clearDone_rstN : s.clearDone.rstN = s.rstN := rfl
@[simp] theorem State.clearDone_host : s.clearDone.host = s.host := rfl
@[simp] theorem State.clearDone_answers : s.clearDone.answers = s.answers := rfl
@[simp] theorem State.clearDone_turns : s.clearDone.turns = s.turns := rfl

@[simp] theorem State.clearErr_params : s.clearErr.params = s.params := rfl
@[simp] theorem State.clearErr_x : s.clearErr.x = s.x := rfl
@[simp] theorem State.clearErr_ieDone : s.clearErr.ieDone = s.ieDone := rfl
@[simp] theorem State.clearErr_ieErr : s.clearErr.ieErr = s.ieErr := rfl
@[simp] theorem State.clearErr_done : s.clearErr.done = s.done := rfl
@[simp] theorem State.clearErr_err : s.clearErr.err = false := rfl
@[simp] theorem State.clearErr_errcode : s.clearErr.errcode = 0 := rfl
@[simp] theorem State.clearErr_phase : s.clearErr.phase = s.phase := rfl
@[simp] theorem State.clearErr_cur : s.clearErr.cur = s.cur := rfl
@[simp] theorem State.clearErr_wk : s.clearErr.wk = s.wk := rfl
@[simp] theorem State.clearErr_rstN : s.clearErr.rstN = s.rstN := rfl
@[simp] theorem State.clearErr_host : s.clearErr.host = s.host := rfl
@[simp] theorem State.clearErr_answers : s.clearErr.answers = s.answers := rfl
@[simp] theorem State.clearErr_turns : s.clearErr.turns = s.turns := rfl

@[simp] theorem State.respond_params (a : Answer) : (s.respond a).params = s.params := rfl
@[simp] theorem State.respond_x (a : Answer) : (s.respond a).x = s.x := rfl
@[simp] theorem State.respond_ieDone (a : Answer) : (s.respond a).ieDone = s.ieDone := rfl
@[simp] theorem State.respond_ieErr (a : Answer) : (s.respond a).ieErr = s.ieErr := rfl
@[simp] theorem State.respond_done (a : Answer) : (s.respond a).done = s.done := rfl
@[simp] theorem State.respond_err (a : Answer) : (s.respond a).err = s.err := rfl
@[simp] theorem State.respond_errcode (a : Answer) : (s.respond a).errcode = s.errcode := rfl
@[simp] theorem State.respond_phase (a : Answer) : (s.respond a).phase = s.phase := rfl
@[simp] theorem State.respond_cur (a : Answer) : (s.respond a).cur = s.cur := rfl
@[simp] theorem State.respond_wk (a : Answer) : (s.respond a).wk = s.wk := rfl
@[simp] theorem State.respond_rstN (a : Answer) : (s.respond a).rstN = s.rstN := rfl
@[simp] theorem State.respond_host (a : Answer) : (s.respond a).host = s.host := rfl
@[simp] theorem State.respond_answers (a : Answer) : (s.respond a).answers = a :: s.answers := rfl
@[simp] theorem State.respond_turns (a : Answer) : (s.respond a).turns = s.turns := rfl

@[simp] theorem State.accept_params (op : Opcode) (rd : RegSel) (w : Work) : (s.accept op rd w).params = s.params := rfl
@[simp] theorem State.accept_x (op : Opcode) (rd : RegSel) (w : Work) : (s.accept op rd w).x = s.x := rfl
@[simp] theorem State.accept_ieDone (op : Opcode) (rd : RegSel) (w : Work) : (s.accept op rd w).ieDone = s.ieDone := rfl
@[simp] theorem State.accept_ieErr (op : Opcode) (rd : RegSel) (w : Work) : (s.accept op rd w).ieErr = s.ieErr := rfl
@[simp] theorem State.accept_done (op : Opcode) (rd : RegSel) (w : Work) : (s.accept op rd w).done = false := rfl
@[simp] theorem State.accept_err (op : Opcode) (rd : RegSel) (w : Work) : (s.accept op rd w).err = false := rfl
@[simp] theorem State.accept_errcode (op : Opcode) (rd : RegSel) (w : Work) : (s.accept op rd w).errcode = 0 := rfl
@[simp] theorem State.accept_phase (op : Opcode) (rd : RegSel) (w : Work) : (s.accept op rd w).phase = .run := rfl
@[simp] theorem State.accept_cur (op : Opcode) (rd : RegSel) (w : Work) : (s.accept op rd w).cur = ⟨op, rd⟩ := rfl
@[simp] theorem State.accept_wk (op : Opcode) (rd : RegSel) (w : Work) : (s.accept op rd w).wk = w := rfl
@[simp] theorem State.accept_rstN (op : Opcode) (rd : RegSel) (w : Work) : (s.accept op rd w).rstN = s.rstN := rfl
@[simp] theorem State.accept_host (op : Opcode) (rd : RegSel) (w : Work) : (s.accept op rd w).host = s.host := rfl
@[simp] theorem State.accept_answers (op : Opcode) (rd : RegSel) (w : Work) : (s.accept op rd w).answers = s.answers := rfl
@[simp] theorem State.accept_turns (op : Opcode) (rd : RegSel) (w : Work) : (s.accept op rd w).turns = s.turns := rfl

@[simp] theorem State.toIdle_params : s.toIdle.params = s.params := rfl
@[simp] theorem State.toIdle_x : s.toIdle.x = s.x := rfl
@[simp] theorem State.toIdle_ieDone : s.toIdle.ieDone = s.ieDone := rfl
@[simp] theorem State.toIdle_ieErr : s.toIdle.ieErr = s.ieErr := rfl
@[simp] theorem State.toIdle_done : s.toIdle.done = s.done := rfl
@[simp] theorem State.toIdle_err : s.toIdle.err = s.err := rfl
@[simp] theorem State.toIdle_errcode : s.toIdle.errcode = s.errcode := rfl
@[simp] theorem State.toIdle_phase : s.toIdle.phase = .idle := rfl
@[simp] theorem State.toIdle_cur : s.toIdle.cur = ⟨0, 0⟩ := rfl
@[simp] theorem State.toIdle_wk : s.toIdle.wk = .none := rfl
@[simp] theorem State.toIdle_rstN : s.toIdle.rstN = s.rstN := rfl
@[simp] theorem State.toIdle_host : s.toIdle.host = s.host := rfl
@[simp] theorem State.toIdle_answers : s.toIdle.answers = s.answers := rfl
@[simp] theorem State.toIdle_turns : s.toIdle.turns = s.turns := rfl

@[simp] theorem State.complete_params (v : Nat) : (s.complete v).params = s.params := rfl
@[simp] theorem State.complete_x (v : Nat) : (s.complete v).x = s.x.set s.cur.rd v := rfl
@[simp] theorem State.complete_ieDone (v : Nat) : (s.complete v).ieDone = s.ieDone := rfl
@[simp] theorem State.complete_ieErr (v : Nat) : (s.complete v).ieErr = s.ieErr := rfl
@[simp] theorem State.complete_done (v : Nat) : (s.complete v).done = true := rfl
@[simp] theorem State.complete_err (v : Nat) : (s.complete v).err = s.err := rfl
@[simp] theorem State.complete_errcode (v : Nat) : (s.complete v).errcode = s.errcode := rfl
@[simp] theorem State.complete_phase (v : Nat) : (s.complete v).phase = .idle := rfl
@[simp] theorem State.complete_cur (v : Nat) : (s.complete v).cur = ⟨0, 0⟩ := rfl
@[simp] theorem State.complete_wk (v : Nat) : (s.complete v).wk = .none := rfl
@[simp] theorem State.complete_rstN (v : Nat) : (s.complete v).rstN = s.rstN := rfl
@[simp] theorem State.complete_host (v : Nat) : (s.complete v).host = s.host := rfl
@[simp] theorem State.complete_answers (v : Nat) : (s.complete v).answers = s.answers := rfl
@[simp] theorem State.complete_turns (v : Nat) : (s.complete v).turns = s.turns := rfl

@[simp] theorem State.raiseFault_params (c : FaultCode) : (s.raiseFault c).params = s.params := rfl
@[simp] theorem State.raiseFault_x (c : FaultCode) : (s.raiseFault c).x = s.x := rfl
@[simp] theorem State.raiseFault_ieDone (c : FaultCode) : (s.raiseFault c).ieDone = s.ieDone := rfl
@[simp] theorem State.raiseFault_ieErr (c : FaultCode) : (s.raiseFault c).ieErr = s.ieErr := rfl
@[simp] theorem State.raiseFault_done (c : FaultCode) : (s.raiseFault c).done = s.done := rfl
@[simp] theorem State.raiseFault_err (c : FaultCode) : (s.raiseFault c).err = true := rfl
@[simp] theorem State.raiseFault_errcode (c : FaultCode) : (s.raiseFault c).errcode = c.code := rfl
@[simp] theorem State.raiseFault_phase (c : FaultCode) : (s.raiseFault c).phase = .idle := rfl
@[simp] theorem State.raiseFault_cur (c : FaultCode) : (s.raiseFault c).cur = ⟨0, 0⟩ := rfl
@[simp] theorem State.raiseFault_wk (c : FaultCode) : (s.raiseFault c).wk = .none := rfl
@[simp] theorem State.raiseFault_rstN (c : FaultCode) : (s.raiseFault c).rstN = s.rstN := rfl
@[simp] theorem State.raiseFault_host (c : FaultCode) : (s.raiseFault c).host = s.host := rfl
@[simp] theorem State.raiseFault_answers (c : FaultCode) : (s.raiseFault c).answers = s.answers := rfl
@[simp] theorem State.raiseFault_turns (c : FaultCode) : (s.raiseFault c).turns = s.turns := rfl

@[simp] theorem State.illegalCommand_params : s.illegalCommand.params = s.params := rfl
@[simp] theorem State.illegalCommand_x : s.illegalCommand.x = s.x := rfl
@[simp] theorem State.illegalCommand_ieDone : s.illegalCommand.ieDone = s.ieDone := rfl
@[simp] theorem State.illegalCommand_ieErr : s.illegalCommand.ieErr = s.ieErr := rfl
@[simp] theorem State.illegalCommand_done : s.illegalCommand.done = false := rfl
@[simp] theorem State.illegalCommand_err : s.illegalCommand.err = true := rfl
@[simp] theorem State.illegalCommand_errcode : s.illegalCommand.errcode = 1 := rfl
@[simp] theorem State.illegalCommand_phase : s.illegalCommand.phase = s.phase := rfl
@[simp] theorem State.illegalCommand_cur : s.illegalCommand.cur = s.cur := rfl
@[simp] theorem State.illegalCommand_wk : s.illegalCommand.wk = s.wk := rfl
@[simp] theorem State.illegalCommand_rstN : s.illegalCommand.rstN = s.rstN := rfl
@[simp] theorem State.illegalCommand_host : s.illegalCommand.host = s.host := rfl
@[simp] theorem State.illegalCommand_answers : s.illegalCommand.answers = s.answers := rfl
@[simp] theorem State.illegalCommand_turns : s.illegalCommand.turns = s.turns := rfl

@[simp] theorem State.resetBlock_params : s.resetBlock.params = s.params := rfl
@[simp] theorem State.resetBlock_x : s.resetBlock.x = #v[0, 0, 0, 0, 0, 0, 0, 0] := rfl
@[simp] theorem State.resetBlock_ieDone : s.resetBlock.ieDone = false := rfl
@[simp] theorem State.resetBlock_ieErr : s.resetBlock.ieErr = false := rfl
@[simp] theorem State.resetBlock_done : s.resetBlock.done = false := rfl
@[simp] theorem State.resetBlock_err : s.resetBlock.err = false := rfl
@[simp] theorem State.resetBlock_errcode : s.resetBlock.errcode = 0 := rfl
@[simp] theorem State.resetBlock_phase : s.resetBlock.phase = .idle := rfl
@[simp] theorem State.resetBlock_cur : s.resetBlock.cur = ⟨0, 0⟩ := rfl
@[simp] theorem State.resetBlock_wk : s.resetBlock.wk = .none := rfl
@[simp] theorem State.resetBlock_rstN : s.resetBlock.rstN = s.rstN := rfl
@[simp] theorem State.resetBlock_host : s.resetBlock.host = s.host := rfl
@[simp] theorem State.resetBlock_answers : s.resetBlock.answers = s.answers := rfl
@[simp] theorem State.resetBlock_turns : s.resetBlock.turns = s.turns := rfl

@[simp] theorem State.popLine_params : s.popLine.params = s.params := rfl
@[simp] theorem State.popLine_x : s.popLine.x = s.x := rfl
@[simp] theorem State.popLine_ieDone : s.popLine.ieDone = s.ieDone := rfl
@[simp] theorem State.popLine_ieErr : s.popLine.ieErr = s.ieErr := rfl
@[simp] theorem State.popLine_done : s.popLine.done = s.done := rfl
@[simp] theorem State.popLine_err : s.popLine.err = s.err := rfl
@[simp] theorem State.popLine_errcode : s.popLine.errcode = s.errcode := rfl
@[simp] theorem State.popLine_phase : s.popLine.phase = s.phase := rfl
@[simp] theorem State.popLine_cur : s.popLine.cur = s.cur := rfl
@[simp] theorem State.popLine_wk : s.popLine.wk = s.wk := rfl
@[simp] theorem State.popLine_rstN : s.popLine.rstN = s.rstN := rfl
@[simp] theorem State.popLine_host : s.popLine.host = s.host.tail := rfl
@[simp] theorem State.popLine_answers : s.popLine.answers = s.answers := rfl
@[simp] theorem State.popLine_turns : s.popLine.turns = s.turns := rfl

@[simp] theorem State.nextLine_params : s.nextLine.params = s.params := by unfold State.nextLine; split <;> rfl
@[simp] theorem State.nextLine_x : s.nextLine.x = s.x := by unfold State.nextLine; split <;> rfl
@[simp] theorem State.nextLine_ieDone : s.nextLine.ieDone = s.ieDone := by unfold State.nextLine; split <;> rfl
@[simp] theorem State.nextLine_ieErr : s.nextLine.ieErr = s.ieErr := by unfold State.nextLine; split <;> rfl
@[simp] theorem State.nextLine_done : s.nextLine.done = s.done := by unfold State.nextLine; split <;> rfl
@[simp] theorem State.nextLine_err : s.nextLine.err = s.err := by unfold State.nextLine; split <;> rfl
@[simp] theorem State.nextLine_errcode : s.nextLine.errcode = s.errcode := by unfold State.nextLine; split <;> rfl
@[simp] theorem State.nextLine_phase : s.nextLine.phase = s.phase := by unfold State.nextLine; split <;> rfl
@[simp] theorem State.nextLine_cur : s.nextLine.cur = s.cur := by unfold State.nextLine; split <;> rfl
@[simp] theorem State.nextLine_wk : s.nextLine.wk = s.wk := by unfold State.nextLine; split <;> rfl
@[simp] theorem State.nextLine_rstN : s.nextLine.rstN = s.rstN := by unfold State.nextLine; split <;> rfl
@[simp] theorem State.nextLine_answers : s.nextLine.answers = s.answers := by unfold State.nextLine; split <;> rfl
@[simp] theorem State.nextLine_turns : s.nextLine.turns = s.turns := by unfold State.nextLine; split <;> rfl

@[simp] theorem State.popTurn_params : s.popTurn.params = s.params := rfl
@[simp] theorem State.popTurn_x : s.popTurn.x = s.x := rfl
@[simp] theorem State.popTurn_ieDone : s.popTurn.ieDone = s.ieDone := rfl
@[simp] theorem State.popTurn_ieErr : s.popTurn.ieErr = s.ieErr := rfl
@[simp] theorem State.popTurn_done : s.popTurn.done = s.done := rfl
@[simp] theorem State.popTurn_err : s.popTurn.err = s.err := rfl
@[simp] theorem State.popTurn_errcode : s.popTurn.errcode = s.errcode := rfl
@[simp] theorem State.popTurn_phase : s.popTurn.phase = s.phase := rfl
@[simp] theorem State.popTurn_cur : s.popTurn.cur = s.cur := rfl
@[simp] theorem State.popTurn_wk : s.popTurn.wk = s.wk := rfl
@[simp] theorem State.popTurn_rstN : s.popTurn.rstN = s.rstN := rfl
@[simp] theorem State.popTurn_host : s.popTurn.host = s.host := rfl
@[simp] theorem State.popTurn_answers : s.popTurn.answers = s.answers := rfl
@[simp] theorem State.popTurn_turns : s.popTurn.turns = s.turns.tail := rfl

@[simp] theorem State.presentCommand_params (v : Word) : (s.presentCommand v).params = s.params := rfl
@[simp] theorem State.presentCommand_x (v : Word) : (s.presentCommand v).x = s.x := rfl
@[simp] theorem State.presentCommand_ieDone (v : Word) : (s.presentCommand v).ieDone = s.ieDone := rfl
@[simp] theorem State.presentCommand_ieErr (v : Word) : (s.presentCommand v).ieErr = s.ieErr := rfl
@[simp] theorem State.presentCommand_done (v : Word) : (s.presentCommand v).done = s.done := rfl
@[simp] theorem State.presentCommand_err (v : Word) : (s.presentCommand v).err = s.err := rfl
@[simp] theorem State.presentCommand_errcode (v : Word) : (s.presentCommand v).errcode = s.errcode := rfl
@[simp] theorem State.presentCommand_phase (v : Word) : (s.presentCommand v).phase = s.phase := rfl
@[simp] theorem State.presentCommand_cur (v : Word) : (s.presentCommand v).cur = s.cur := rfl
@[simp] theorem State.presentCommand_wk (v : Word) : (s.presentCommand v).wk = s.wk := rfl
@[simp] theorem State.presentCommand_rstN (v : Word) : (s.presentCommand v).rstN = s.rstN := rfl
@[simp] theorem State.presentCommand_host (v : Word) : (s.presentCommand v).host = .bus (.write 0x0010 4 v) :: s.host := rfl
@[simp] theorem State.presentCommand_answers (v : Word) : (s.presentCommand v).answers = s.answers := rfl
@[simp] theorem State.presentCommand_turns (v : Word) : (s.presentCommand v).turns = .host :: s.turns := rfl

@[simp] theorem State.portReady_params : s.portReady.params = s.params := rfl
@[simp] theorem State.portReady_x : s.portReady.x = s.x := rfl
@[simp] theorem State.portReady_ieDone : s.portReady.ieDone = s.ieDone := rfl
@[simp] theorem State.portReady_ieErr : s.portReady.ieErr = s.ieErr := rfl
@[simp] theorem State.portReady_done : s.portReady.done = s.done := rfl
@[simp] theorem State.portReady_err : s.portReady.err = s.err := rfl
@[simp] theorem State.portReady_errcode : s.portReady.errcode = s.errcode := rfl
@[simp] theorem State.portReady_phase : s.portReady.phase = .idle := rfl
@[simp] theorem State.portReady_cur : s.portReady.cur = ⟨0, 0⟩ := rfl
@[simp] theorem State.portReady_wk : s.portReady.wk = .none := rfl
@[simp] theorem State.portReady_rstN : s.portReady.rstN = true := rfl
@[simp] theorem State.portReady_host : s.portReady.host = s.host := rfl
@[simp] theorem State.portReady_answers : s.portReady.answers = s.answers := rfl
@[simp] theorem State.portReady_turns : s.portReady.turns = s.turns := rfl

end Sys2Proof.Machine
end

