-- ==== Sys2Proof/Laws/Operands.lean ====
section
/-! SUPPORT. The laws of the operand forms: register read after write, limb read after limb write, the length of a number, the count of Euclidean iterations, the representative of an integer. -/

namespace Sys2Proof.Machine

/-! Registers -/

theorem State.readX_writeX (s : State) (i j : RegSel) (v : Nat) :
    (s.writeX i v).readX j = if i = j then v else s.readX j := by
  simp only [State.readX, State.writeX_x, Fin.getElem_fin, Vector.getElem_set, Fin.ext_iff]

@[simp] theorem State.readX_writeX_same (s : State) (i : RegSel) (v : Nat) :
    (s.writeX i v).readX i = v := by simp [State.readX_writeX]

theorem State.readX_writeX_other (s : State) (i j : RegSel) (v : Nat) (h : i ≠ j) :
    (s.writeX i v).readX j = s.readX j := by simp [State.readX_writeX, h]

/-- Reading a register looks at the register file only. -/
theorem State.readX_congr {s t : State} (h : t.x = s.x) (i : RegSel) : t.readX i = s.readX i := by
  simp [State.readX, h]

/-! Limbs -/

theorem limb_toNat (v j : Nat) : (limb v j).toNat = v / 2 ^ (32 * j) % 2 ^ 32 := by
  simp [limb, bitField]

/-- A number is what lies below a limb, the limb, and what lies above it. -/
theorem limb_split (v j : Nat) :
    v = v % 2 ^ (32 * j) + (limb v j).toNat * 2 ^ (32 * j) + v / 2 ^ (32 * (j + 1)) * 2 ^ (32 * (j + 1)) := by
  have hp : 2 ^ (32 * (j + 1)) = 2 ^ (32 * j) * 2 ^ 32 := by rw [← Nat.pow_add]; congr 1
  have hd : v / 2 ^ (32 * (j + 1)) = v / 2 ^ (32 * j) / 2 ^ 32 := by rw [hp, Nat.div_div_eq_div_mul]
  have h1 := Nat.div_add_mod v (2 ^ (32 * j))
  have h2 := Nat.div_add_mod (v / 2 ^ (32 * j)) (2 ^ 32)
  rw [limb_toNat, hd, hp]
  generalize v / 2 ^ (32 * j) = q at *
  generalize 2 ^ (32 * j) = b at *
  generalize v % b = r at *
  generalize 2 ^ 32 = c at *
  generalize hq : q / c = q' at *
  generalize hm : q % c = m at *
  subst h1; rw [← h2]; ring

theorem setlimb_eq (v j : Nat) (d : Word) :
    setlimb v j d = v % 2 ^ (32 * j) + d.toNat * 2 ^ (32 * j) + v / 2 ^ (32 * (j + 1)) * 2 ^ (32 * (j + 1)) := by
  have h := limb_split v j
  unfold setlimb
  generalize hl : (limb v j).toNat * 2 ^ (32 * j) = l at *
  generalize hh : v / 2 ^ (32 * (j + 1)) * 2 ^ (32 * (j + 1)) = hi at *
  generalize hr : v % 2 ^ (32 * j) = r at *
  omega

/-- Below a limb, at it, and above it: the parts of a limb write (R66). -/
theorem setlimb_parts (v j : Nat) (d : Word) :
    setlimb v j d % 2 ^ (32 * j) = v % 2 ^ (32 * j) ∧ limb (setlimb v j d) j = d ∧
      setlimb v j d / 2 ^ (32 * (j + 1)) = v / 2 ^ (32 * (j + 1)) := by
  have hp : 2 ^ (32 * (j + 1)) = 2 ^ (32 * j) * 2 ^ 32 := by rw [← Nat.pow_add]; congr 1
  have hb : 0 < 2 ^ (32 * j) := Nat.two_pow_pos _
  have hr : v % 2 ^ (32 * j) < 2 ^ (32 * j) := Nat.mod_lt _ hb
  have hd := d.isLt
  have e : setlimb v j d = v % 2 ^ (32 * j) +
      2 ^ (32 * j) * (d.toNat + 2 ^ 32 * (v / 2 ^ (32 * (j + 1)))) := by
    rw [setlimb_eq, hp]; ring
  have hq : setlimb v j d / 2 ^ (32 * j) = d.toNat + 2 ^ 32 * (v / 2 ^ (32 * (j + 1))) := by
    rw [e, Nat.add_mul_div_left _ _ hb, Nat.div_eq_of_lt hr, Nat.zero_add]
  refine ⟨by rw [e, Nat.add_mul_mod_self_left, Nat.mod_mod], ?_, ?_⟩
  · apply BitVec.eq_of_toNat_eq
    rw [limb_toNat, hq, Nat.add_mul_mod_self_left, Nat.mod_eq_of_lt hd]
  · rw [hp, ← Nat.div_div_eq_div_mul, hq, Nat.add_mul_div_left _ _ (by decide), Nat.div_eq_of_lt hd, Nat.zero_add, hp]

/-- A limb write changes its own limb and no other (R66). -/
theorem limb_setlimb (v j k : Nat) (d : Word) :
    limb (setlimb v j d) k = if k = j then d else limb v k := by
  obtain ⟨hlow, hself, hhigh⟩ := setlimb_parts v j d
  split
  · subst k; exact hself
  · apply BitVec.eq_of_toNat_eq
    rw [limb_toNat, limb_toNat]
    rcases Nat.lt_or_gt_of_ne ‹k ≠ j› with h | h
    · have hj : 2 ^ (32 * j) = 2 ^ (32 * k) * 2 ^ (32 * (j - k)) := by rw [← Nat.pow_add]; congr 1; omega
      have hdvd : 2 ^ 32 ∣ 2 ^ (32 * (j - k)) := Nat.pow_dvd_pow _ (by omega)
      have key : ∀ n : Nat, n / 2 ^ (32 * k) % 2 ^ 32 = n % 2 ^ (32 * j) / 2 ^ (32 * k) % 2 ^ 32 := by
        intro n
        rw [hj, Nat.mod_mul_right_div_self, Nat.mod_mod_of_dvd _ hdvd]
      rw [key, hlow, ← key]
    · have hk : 2 ^ (32 * k) = 2 ^ (32 * (j + 1)) * 2 ^ (32 * (k - (j + 1))) := by rw [← Nat.pow_add]; congr 1; omega
      rw [hk, ← Nat.div_div_eq_div_mul, hhigh, Nat.div_div_eq_div_mul]

/-- A limb write inside a register of `L` limbs keeps it a register value (R21). -/
theorem setlimb_lt {v j n : Nat} (d : Word) (hj : j < n) (hv : v < 2 ^ (32 * n)) :
    setlimb v j d < 2 ^ (32 * n) := by
  have hn : 2 ^ (32 * n) = 2 ^ (32 * (j + 1)) * 2 ^ (32 * (n - (j + 1))) := by rw [← Nat.pow_add]; congr 1; omega
  have hhigh := (setlimb_parts v j d).2.2
  have hv' : v / 2 ^ (32 * (j + 1)) < 2 ^ (32 * (n - (j + 1))) := by
    rw [Nat.div_lt_iff_lt_mul (Nat.two_pow_pos _), Nat.mul_comm, ← hn]; exact hv
  rw [← hhigh, Nat.div_lt_iff_lt_mul (Nat.two_pow_pos _), Nat.mul_comm, ← hn] at hv'
  exact hv'

/-! The length of a number (R10) -/

@[simp] theorem bitlen_zero : bitlen 0 = 0 := rfl

theorem bitlen_half {v : Nat} (h : v ≠ 0) : bitlen v = bitlen (v / 2) + 1 := by
  unfold bitlen
  rw [if_neg h]
  by_cases h2 : v < 2
  · have : v = 1 := by omega
    subst this; decide
  · rw [if_neg (by omega), Nat.log2_def v, if_pos (by omega)]

/-- `bitlen(v)` is the least `k` with `v < 2^k` (R10). -/
theorem bitlen_le_iff (v k : Nat) : bitlen v ≤ k ↔ v < 2 ^ k := by
  unfold bitlen
  split
  · subst v; simp
  · rw [Nat.succ_le_iff, Nat.log2_lt ‹_›]

/-! The count of Euclidean iterations (R46) -/

theorem euclidItersFuel_eq {f g u v : Nat} (hf : v ≤ f) (hg : v ≤ g) :
    euclidItersFuel f u v = euclidItersFuel g u v := by
  induction f generalizing g u v with
  | zero =>
    have : v = 0 := by omega
    subst this
    cases g <;> simp [euclidItersFuel]
  | succ f ih =>
    cases g with
    | zero =>
      have : v = 0 := by omega
      subst this; simp [euclidItersFuel]
    | succ g =>
      simp only [euclidItersFuel]
      split
      · rfl
      · have : u % v < v := Nat.mod_lt _ (by omega)
        rw [ih (g := g) (by omega) (by omega)]

@[simp] theorem euclidIters_zero (a : Nat) : euclidIters a 0 = 0 := rfl

theorem euclidIters_step {a b : Nat} (h : b ≠ 0) : euclidIters a b = euclidIters b (a % b) + 1 := by
  have hm : a % b < b := Nat.mod_lt _ (by omega)
  obtain ⟨f, rfl⟩ : ∃ f, b = f + 1 := ⟨b - 1, by omega⟩
  unfold euclidIters
  rw [euclidItersFuel, if_neg h, euclidItersFuel_eq (g := a % (f + 1)) (by omega) (Nat.le_refl _)]

/-! The representative of an integer (R10) -/

theorem emod_lt (t : Int) {n : Nat} (h : n ≠ 0) : emod t n < n := by
  have h1 : 0 ≤ t % (n : Int) := Int.emod_nonneg _ (by omega)
  have h2 : t % (n : Int) < n := Int.emod_lt_of_pos _ (by omega)
  unfold emod; omega

theorem emod_cast (t : Int) {n : Nat} (h : n ≠ 0) : ((emod t n : Nat) : Int) = t % (n : Int) := by
  have h1 : 0 ≤ t % (n : Int) := Int.emod_nonneg _ (by omega)
  unfold emod; omega

end Sys2Proof.Machine
end

