-- ==== Sys2Proof/Laws/Ops.lean ====
section
/-! SUPPORT. What each shared operation of the lifecycle can do, said once: issuing a command, applying an engine step, the conditional writes of `CTRL` and `STATUS`, holding in reset. -/

namespace Sys2Proof.Machine

/-- Issuing a command while none runs accepts it (R40). -/
theorem State.issue_idle {s : State} (h : s.phase = .idle) (op : Opcode) (rd : RegSel) (w : Work) :
    s.issue op rd w = .next ((s.accept op rd w).respond .okWrite) := by
  simp [State.issue, h]

/-- Issuing a command while one runs is refused with `err` (R68). -/
theorem State.issue_run {s : State} (h : s.phase = .run) (op : Opcode) (rd : RegSel) (w : Work) :
    s.issue op rd w = .next (s.respond .err) := by
  simp [State.issue, h]

/-- Every command issues its opcode, its destination and its initial working registers. -/
theorem exec_eq_issue (i : Instr) (s : State) : exec i s = s.issue i.opcode i.rd (initOp i s) := by
  cases i <;> rfl

/-- All a command's `CMD` write can do. -/
theorem exec_cases (i : Instr) (s : State) :
    (s.phase = .run ∧ exec i s = .next (s.respond .err)) ∨
    (s.phase = .idle ∧ exec i s = .next ((s.accept i.opcode i.rd (initOp i s)).respond .okWrite)) := by
  rw [exec_eq_issue]
  cases h : s.phase
  · exact .inr ⟨rfl, State.issue_idle h _ _ _⟩
  · exact .inl ⟨rfl, State.issue_run h _ _ _⟩

/-! Applying the outcome of an engine step -/

@[simp] theorem State.apply_cont (s : State) (w : Work) : s.apply (.cont w) = { s with wk := w } := rfl
@[simp] theorem State.apply_complete (s : State) (v : Nat) : s.apply (.complete v) = s.complete v := rfl
@[simp] theorem State.apply_fault (s : State) (c : FaultCode) : s.apply (.fault c) = s.raiseFault c := rfl

/-- What an engine step leaves alone, whatever its outcome. -/
theorem State.apply_frame (s : State) (r : StepResult) :
    (s.apply r).params = s.params ∧ (s.apply r).ieDone = s.ieDone ∧ (s.apply r).ieErr = s.ieErr ∧
      (s.apply r).rstN = s.rstN ∧ (s.apply r).host = s.host ∧ (s.apply r).answers = s.answers ∧
      (s.apply r).turns = s.turns := by
  cases r <;> simp

/-- Only completing writes a register, and only the destination (R22 b, R44). -/
theorem State.apply_readX (s : State) (r : StepResult) (i : RegSel) :
    (s.apply r).readX i = s.readX i ∨ ∃ v, r = .complete v ∧ i = s.cur.rd ∧ (s.apply r).readX i = v := by
  cases r with
  | cont w => exact .inl rfl
  | fault c => exact .inl rfl
  | complete v =>
    by_cases h : s.cur.rd = i
    · exact .inr ⟨v, rfl, h.symm, by subst h; exact State.readX_writeX_same s _ v⟩
    · exact .inl (State.readX_writeX_other s _ i v h)

/-! The writes of `CTRL` and `STATUS` -/

/-- All a `CTRL` write can do: the enables, and an abort when bit 4 is 1 and a command runs (R191). -/
theorem State.writeCtrl_cases (s : State) (v : Word) :
    s.writeCtrl v = s.setEnables v ∨
      (v.getLsbD 4 = true ∧ s.phase = .run ∧ s.writeCtrl v = (s.setEnables v).toIdle) := by
  unfold State.writeCtrl State.abortCommand
  split
  · cases h : s.phase
    · exact .inl (by simp [h])
    · exact .inr ⟨‹_›, rfl, by simp [h]⟩
  · exact .inl rfl

/-- The result of a `STATUS` write, flag by flag (R192). -/
theorem State.writeStatus_eq (s : State) (v : Word) :
    s.writeStatus v = { s with
      done := if v.getLsbD 1 then false else s.done
      err := if v.getLsbD 2 then false else s.err
      errcode := if v.getLsbD 2 then 0 else s.errcode } := by
  unfold State.writeStatus State.writeOneToClear
  cases v.getLsbD 1 <;> cases v.getLsbD 2 <;> rfl

/-! The block held in reset -/

/-- Resetting a block that is in reset changes nothing (R240). -/
@[simp] theorem State.resetBlock_resetBlock (s : State) : s.resetBlock.resetBlock = s.resetBlock := rfl

/-- A register of a block held in reset is 0 (R50). -/
@[simp] theorem State.readX_resetBlock (s : State) (i : RegSel) : s.resetBlock.readX i = 0 := by
  have h : ∀ i : Fin 8, (#v[0, 0, 0, 0, 0, 0, 0, 0] : Vector Nat 8)[i] = 0 := by decide
  simp only [State.readX, State.resetBlock_x]; exact h i

end Sys2Proof.Machine
end

