-- ==== Sys2Proof/Laws/Bus.lean ====
section
/-! SUPPORT. The laws of the host bus: the window addresses (R62), and all a write can do, said once (R66). -/

namespace Sys2Proof.Machine

/-- The offset of a limb lies in the windows and leads back to its register and index (R62). -/
theorem xaddr_window (i : RegSel) {j : Nat} (hj : j < 256) :
    LegalAccess (xaddr i j) 4 ∧ InWindow (xaddr i j) ∧ windowReg (xaddr i j) = i ∧ windowLimb (xaddr i j) = j := by
  have hi := i.isLt
  have hsub : xaddr i j - 0x1000 = 1024 * i.val + 4 * j := by unfold xaddr; omega
  refine ⟨by unfold LegalAccess xaddr; omega, by unfold InWindow xaddr; omega, ?_, ?_⟩
  · apply Fin.ext
    simp only [windowReg, bitField, hsub, Fin.ofNat]
    omega
  · simp only [windowLimb, bitField, hsub]
    omega

/-- What a mapped, legal address is (R61). -/
theorem legalAccess_cases {addr n : Nat} (h : LegalAccess addr n) :
    addr = 0 ∨ addr = 4 ∨ addr = 8 ∨ addr = 12 ∨ addr = 16 ∨ InWindow addr ∨
      (20 ≤ addr ∧ ¬ InWindow addr) := by
  unfold LegalAccess InWindow at *; omega

/-- All the write of a word to `CMD` can do (R27, R40, R41, R68). -/
theorem writeCmd_cases (s : State) (v : Word) :
    (s.phase = .run ∧ writeCmd s v = .next (s.respond .err)) ∨
    (s.phase = .idle ∧ ∃ i, decode v = .ok i ∧
      writeCmd s v = .next ((s.accept i.opcode i.rd (initOp i s)).respond .okWrite)) ∨
    (s.phase = .idle ∧ ∃ e, decode v = .error e ∧ writeCmd s v = .next (s.illegalCommand.respond .okWrite)) := by
  unfold writeCmd
  cases hp : s.phase with
  | run => exact .inl ⟨rfl, by simp⟩
  | idle =>
    cases hd : decode v with
    | error e => exact .inr (.inr ⟨rfl, e, rfl, by simp⟩)
    | ok i =>
      rcases exec_cases i s with ⟨h, -⟩ | ⟨-, h⟩
      · simp [hp] at h
      · exact .inr (.inl ⟨rfl, i, rfl, by simpa using h⟩)

/-- All a bus write can do (R66): it always answers, and it is one of these effects. -/
theorem memWrite_cases (s : State) (addr n : Nat) (v : Word) :
    memWrite s addr n v = .next (s.respond .err) ∨
    (addr = 0x0008 ∧ memWrite s addr n v = .next ((s.writeCtrl v).respond .okWrite)) ∨
    (addr = 0x000C ∧ memWrite s addr n v = .next ((s.writeStatus v).respond .okWrite)) ∨
    (addr = 0x0010 ∧ s.phase = .idle ∧ ∃ i, decode v = .ok i ∧
      memWrite s addr n v = .next ((s.accept i.opcode i.rd (initOp i s)).respond .okWrite)) ∨
    (addr = 0x0010 ∧ s.phase = .idle ∧ ∃ e, decode v = .error e ∧
      memWrite s addr n v = .next (s.illegalCommand.respond .okWrite)) ∨
    (LegalAccess addr n ∧ InWindow addr ∧ windowLimb addr < s.params.L ∧ s.phase = .idle ∧
      memWrite s addr n v = .next ((s.writeLimb (windowReg addr) (windowLimb addr) v).respond .okWrite)) := by
  unfold memWrite
  by_cases hl : LegalAccess addr n
  · rw [if_neg (not_not_intro hl)]
    split
    · exact .inl rfl
    split
    · exact .inr (.inl ⟨‹_›, rfl⟩)
    split
    · exact .inr (.inr (.inl ⟨‹_›, rfl⟩))
    split
    · rcases writeCmd_cases s v with ⟨-, h⟩ | ⟨hp, i, hd, h⟩ | ⟨hp, e, hd, h⟩
      · exact .inl h
      · exact .inr (.inr (.inr (.inl ⟨‹_›, hp, i, hd, h⟩)))
      · exact .inr (.inr (.inr (.inr (.inl ⟨‹_›, hp, e, hd, h⟩))))
    split
    · split
      · exact .inl rfl
      · cases hp : s.phase
        · exact .inr (.inr (.inr (.inr (.inr ⟨hl, ‹_›, Nat.lt_of_not_le ‹_›, rfl, by simp⟩))))
        · exact .inl (by simp)
    · exact .inl rfl
  · rw [if_pos hl]; exact .inl rfl

/-- A bus write never stops the machine. -/
theorem memWrite_next (s : State) (addr n : Nat) (v : Word) : ∃ t, memWrite s addr n v = .next t := by
  rcases memWrite_cases s addr n v with h | ⟨-, h⟩ | ⟨-, h⟩ | ⟨-, -, _, -, h⟩ | ⟨-, -, _, -, h⟩ | ⟨-, -, -, -, h⟩ <;>
    exact ⟨_, h⟩

/-- A transaction never stops the machine and adds exactly one answer, and so leaves alone the width, the reset input, the host's lines and the turns (R60). -/
theorem transact_frame {s t : State} {x : Txn} (h : transact s x = .next t) :
    (∃ a, t.answers = a :: s.answers) ∧ t.params = s.params ∧ t.rstN = s.rstN ∧ t.host = s.host ∧
      t.turns = s.turns := by
  cases x with
  | read addr n => cases h; exact ⟨⟨_, rfl⟩, rfl, rfl, rfl, rfl⟩
  | write addr n v =>
    have hw : transact s (.write addr n v) = memWrite s addr n v := rfl
    rw [hw] at h
    rcases memWrite_cases s addr n v with e | ⟨-, e⟩ | ⟨-, e⟩ | ⟨-, -, _, -, e⟩ | ⟨-, -, _, -, e⟩ | ⟨-, -, -, -, e⟩ <;>
      rw [e] at h <;> cases h
    · exact ⟨⟨_, rfl⟩, rfl, rfl, rfl, rfl⟩
    · rcases State.writeCtrl_cases s v with e | ⟨-, -, e⟩ <;> rw [e] <;> exact ⟨⟨_, rfl⟩, rfl, rfl, rfl, rfl⟩
    · rw [State.writeStatus_eq]; exact ⟨⟨_, rfl⟩, rfl, rfl, rfl, rfl⟩
    · exact ⟨⟨_, rfl⟩, rfl, rfl, rfl, rfl⟩
    · exact ⟨⟨_, rfl⟩, rfl, rfl, rfl, rfl⟩
    · exact ⟨⟨_, rfl⟩, rfl, rfl, rfl, rfl⟩

/-- A transaction always answers a next state. -/
theorem transact_next (s : State) (x : Txn) : ∃ t, transact s x = .next t := by
  cases x with
  | read addr n => exact ⟨_, rfl⟩
  | write addr n v => exact memWrite_next s addr n v

/-- A limb write while idle, at the limb's own offset (R62, R66, R194). -/
theorem memWrite_xaddr {s : State} (i : RegSel) {j : Nat} (v : Word) (hp : s.phase = .idle)
    (hj : j < s.params.L) (h256 : j < 256) :
    memWrite s (xaddr i j) 4 v = .next ((s.writeLimb i j v).respond .okWrite) := by
  obtain ⟨hl, hw, hr, hlimb⟩ := xaddr_window i h256
  have hne : ∀ k, k < 0x1000 → xaddr i j ≠ k := by unfold InWindow at hw; omega
  simp only [memWrite, hr, hlimb, hp]
  simp [hl, if_pos hw, Nat.not_le.mpr hj, hne]

/-- A limb read while idle, at the limb's own offset (R62, R65, R194). -/
theorem memRead_xaddr {s : State} (i : RegSel) {j : Nat} (hp : s.phase = .idle)
    (hj : j < s.params.L) (h256 : j < 256) :
    memRead s (xaddr i j) 4 = .okRead (limb (s.readX i) j) := by
  obtain ⟨hl, hw, hr, hlimb⟩ := xaddr_window i h256
  have hne : ∀ k, k < 0x1000 → xaddr i j ≠ k := by unfold InWindow at hw; omega
  simp only [memRead, hr, hlimb, hp]
  simp [hl, if_pos hw, Nat.not_le.mpr hj, hne]

/-- A legal width has at most 256 limbs (R4). -/
theorem Legal.limbs {p : Config.Params} (h : p.Legal) : p.W = 32 * p.L ∧ 1 ≤ p.L ∧ p.L ≤ 256 := by
  unfold Config.Params.Legal Config.Params.L at *; omega

end Sys2Proof.Machine
end

