-- ==== Sys2Proof/Laws/Engine.lean ====
section
/-! SUPPORT. The laws of the engine: what one step can do, steps after steps, and how the end of a command run is reached one step at a time. -/

namespace Sys2Proof.Machine

/-- The engine has no step while idle (R42). -/
theorem engineStep_idle {s : State} (h : s.phase = .idle) : engineStep s = .next s := by
  simp [engineStep, h]

/-- The engine's step applies the outcome of `Step_op(wk)` (R42, R43). -/
theorem engineStep_run {s : State} {r : StepResult} (h : s.phase = .run)
    (hr : stepOp s.params.W s.cur.op s.wk = some r) : engineStep s = .next (s.apply r) := by
  simp [engineStep, h, hr]

/-- All an engine step that answers a next state can do. -/
theorem engineStep_cases {s t : State} (h : engineStep s = .next t) :
    (s.phase = .idle ∧ t = s) ∨
    (s.phase = .run ∧ ∃ r, stepOp s.params.W s.cur.op s.wk = some r ∧ t = s.apply r) := by
  cases hp : s.phase with
  | idle =>
    rw [engineStep_idle hp] at h
    cases h; exact .inl ⟨rfl, rfl⟩
  | run =>
    cases hr : stepOp s.params.W s.cur.op s.wk with
    | none => simp [engineStep, hp, hr] at h
    | some r =>
      rw [engineStep_run hp hr] at h
      cases h; exact .inr ⟨rfl, r, rfl, rfl⟩

@[simp] theorem engineSteps_zero (s : State) : engineSteps 0 s = .next s := rfl

theorem engineSteps_succ {s t : State} (k : Nat) (h : engineStep s = .next t) :
    engineSteps (k + 1) s = engineSteps k t := by
  simp [engineSteps, h]

/-- A command that ends with its next engine step. -/
theorem EndsAfter.last {s t : State} (hp : s.phase = .run) (h : engineStep s = .next t)
    (ht : t.phase = .idle) : EndsAfter 1 s t :=
  ⟨by simp [engineSteps_succ 0 h], ht, fun k hk => ⟨s, by
    obtain rfl : k = 0 := by omega
    exact ⟨rfl, hp⟩⟩⟩

/-- One more step before the end. -/
theorem EndsAfter.more {T : Nat} {s t u : State} (hp : s.phase = .run) (h : engineStep s = .next t)
    (he : EndsAfter T t u) : EndsAfter (T + 1) s u := by
  refine ⟨by rw [engineSteps_succ T h]; exact he.1, he.2.1, fun k hk => ?_⟩
  cases k with
  | zero => exact ⟨s, rfl, hp⟩
  | succ k =>
    rw [engineSteps_succ k h]
    exact he.2.2 k (by omega)

/-- A command ends in one state and at one step only. -/
theorem EndsAfter.unique {T T' : Nat} {s u u' : State} (h : EndsAfter T s u) (h' : EndsAfter T' s u') :
    T = T' ∧ u = u' := by
  have key : ∀ {A B : Nat} {a b : State}, EndsAfter A s a → EndsAfter B s b → ¬ A < B := by
    intro A B a b ha hb hlt
    obtain ⟨v, hv, hrun⟩ := hb.2.2 A hlt
    rw [ha.1] at hv
    cases hv
    rw [ha.2.1] at hrun
    cases hrun
  have hT : T = T' := by
    rcases Nat.lt_trichotomy T T' with hlt | heq | hgt
    · exact absurd hlt (key h h')
    · exact heq
    · exact absurd hgt (key h' h)
  subst hT
  have := h.1.symm.trans h'.1
  cases this
  exact ⟨rfl, rfl⟩

end Sys2Proof.Machine
end

