-- ==== Sys2Proof/Laws/PerInstr.lean ====
section
/-! SUPPORT. The per-instruction family `EncodesInItsRow`: the word of a command carries its opcode and selects its own row of the opcode map (R102). -/

namespace Sys2Proof.Laws.EncodesInItsRow

/-- The word of `i` has `i`'s opcode in bits 3:0, selects `i`'s row, and the row stands in the opcode map (R102). -/
def Statement (i : Instr) : Prop :=
  (encode i).extractLsb 3 0 = i.opcode ∧ i.row.selects (encode i) = true ∧ i.row ∈ opcodeMap

theorem modexp (rd rs1 rs2 rs3 : RegSel) : Statement (.modexp rd rs1 rs2 rs3) := by
  revert rd rs1 rs2 rs3; unfold Statement; decide +kernel

theorem modinv (rd rs1 rs2 : RegSel) : Statement (.modinv rd rs1 rs2) := by
  revert rd rs1 rs2; unfold Statement; decide +kernel

theorem gcd (rd rs1 rs2 : RegSel) : Statement (.gcd rd rs1 rs2) := by
  revert rd rs1 rs2; unfold Statement; decide +kernel

theorem lcm (rd rs1 rs2 : RegSel) : Statement (.lcm rd rs1 rs2) := by
  revert rd rs1 rs2; unfold Statement; decide +kernel

theorem clr (rd : RegSel) : Statement (.clr rd) := by
  revert rd; unfold Statement; decide

end Sys2Proof.Laws.EncodesInItsRow
end

