-- ==== Sys2Proof/Laws/Step.lean ====
section
/-! SUPPORT. All a step can do, said once: the moves of the host, the engine and the reset input (R7, R42, R240). -/

namespace Sys2Proof.Machine

/-- Moving past a line looks at nothing but the host's lines: the state is as before but for them. -/
theorem State.nextLine_eq (s : State) : s.nextLine = { s with host := s.nextLine.host } := by
  unfold State.nextLine; split <;> rfl

/-- All the host can present: nothing, a line's own transaction, the read of `WAIT`, the write of `ABORT` (R108, R109). -/
theorem State.presented_cases (s : State) :
    (s.host = [] ∧ s.presented = none) ∨
    (∃ x rest, s.host = .bus x :: rest ∧ s.presented = some x ∧ s.nextLine = s.popLine) ∨
    (∃ rest, s.host = .wait :: rest ∧ s.presented = some (.read 0x000C 4) ∧
      s.nextLine = if s.statusWord.getLsbD 0 then s else s.popLine) ∨
    (∃ rest, s.host = .abortWrite :: rest ∧ s.presented = some (.write 0x0008 4 s.abortWord) ∧
      s.nextLine = s.popLine) := by
  unfold State.nextLine State.keepsLine State.presented
  cases h : s.host with
  | nil => exact .inl ⟨rfl, rfl⟩
  | cons l rest =>
    cases l with
    | bus x => exact .inr (.inl ⟨x, rest, rfl, rfl, rfl⟩)
    | wait => exact .inr (.inr (.inl ⟨rest, rfl, rfl, rfl⟩))
    | abortWrite => exact .inr (.inr (.inr ⟨rest, rfl, rfl, rfl⟩))

/-- What the host presents depends on its lines and on the answers it has had, and on nothing else. -/
theorem State.presented_congr {s t : State} (hh : t.host = s.host) (ha : t.answers = s.answers) :
    t.presented = s.presented := by
  unfold State.presented State.abortWord State.lastValue
  rw [hh, ha]

/-- All a host step can do. -/
theorem hostMove_cases {s t : State} (h : hostMove s = .next t) :
    (s.rstN = false ∧ t = s.resetBlock) ∨
    (s.rstN = true ∧ s.presented = none ∧ t = s) ∨
    (s.rstN = true ∧ ∃ x, s.presented = some x ∧ transact s.nextLine x = .next t) := by
  unfold hostMove at h
  cases hr : s.rstN with
  | false => rw [hr] at h; cases h; exact .inl ⟨rfl, rfl⟩
  | true =>
    rw [hr] at h
    cases hp : s.presented with
    | none => rw [hp] at h; cases h; exact .inr (.inl ⟨rfl, rfl, rfl⟩)
    | some x => rw [hp] at h; exact .inr (.inr ⟨rfl, x, rfl, h⟩)

/-- A host step never stops the machine. -/
theorem hostMove_next (s : State) : ∃ t, hostMove s = .next t := by
  unfold hostMove
  split
  · exact ⟨_, rfl⟩
  · split
    · exact ⟨_, rfl⟩
    · exact transact_next _ _

/-- The engine's turn out of reset. -/
theorem engineMove_cases {s t : State} (h : engineMove s = .next t) :
    (s.rstN = false ∧ t = s.resetBlock) ∨ (s.rstN = true ∧ engineStep s = .next t) := by
  unfold engineMove at h
  cases hr : s.rstN with
  | false => rw [hr] at h; cases h; exact .inl ⟨rfl, rfl⟩
  | true => rw [hr] at h; exact .inr ⟨rfl, h⟩

/-- All a step that answers a next state can do. -/
theorem step_cases {s t : State} (h : step s = .next t) :
    (s.nextTurn = .host ∧ hostMove s.popTurn = .next t) ∨
    (s.nextTurn = .engine ∧ engineMove s.popTurn = .next t) ∨
    (s.nextTurn = .rstLow ∧ t = resetAssert s.popTurn) ∨
    (s.nextTurn = .rstHigh ∧ t = resetRelease s.popTurn) := by
  unfold step move at h
  cases ht : s.nextTurn <;> rw [ht] at h
  · exact .inl ⟨rfl, h⟩
  · exact .inr (.inl ⟨rfl, h⟩)
  · cases h; exact .inr (.inr (.inl ⟨rfl, rfl⟩))
  · cases h; exact .inr (.inr (.inr ⟨rfl, rfl⟩))

/-- The presented command is what the next step runs (R23, R27): the state `exec` is run in is the block made ready, the write taken from the host and its turn used up. -/
theorem step_withFetchWord (s : State) (nbits w : Nat) :
    step (s.withFetchWord nbits w) = memWrite s.portReady 0x0010 4 (BitVec.ofNat 32 (w % 2 ^ nbits)) := rfl

end Sys2Proof.Machine
end

