-- ==== Sys2Proof/Laws/Port.lean ====
section
/-! SUPPORT. The laws of the port's signals (R75): when a step answered, and what the output signals are then. -/

namespace Sys2Proof.Machine

/-- `bus_req` is 0 exactly while nothing is presented. -/
theorem State.busReq_iff (s : State) : s.busReq = true ↔ ∃ x, s.presented = some x := by
  simp [State.busReq, Option.isSome_iff_exists]

/-- Signals that drive a state have `bus_req` as the state has it, and name the presented transaction. -/
theorem PortRequest.Drives.req_eq {r : PortRequest} {s : State} (h : r.Drives s) : r.req = s.busReq := by
  unfold PortRequest.Drives PortRequest.presented at h
  unfold State.busReq
  rw [← h]
  cases r.req <;> rfl

/-- What signals drive depends on what is presented only. -/
theorem PortRequest.drives_congr {r : PortRequest} {s t : State} (h : t.presented = s.presented) :
    r.Drives t ↔ r.Drives s := by
  unfold PortRequest.Drives; rw [h]

theorem newAnswer_of_cons {s t : State} {a : Answer} (h : t.answers = a :: s.answers) : newAnswer s t = some a := by
  simp [newAnswer, h]

theorem newAnswer_of_same {s t : State} (h : t.answers = s.answers) : newAnswer s t = none := by
  simp [newAnswer, h]

/-- With a new answer the outputs are `bus_ack` 1 and that answer's `bus_err` and `bus_rdata` (R75). -/
theorem portOutputs_of_cons {s t : State} {a : Answer} (h : t.answers = a :: s.answers) :
    portOutputs s t = ⟨true, some a.busErr, a.busRdata, t.irq⟩ := by
  simp [portOutputs, newAnswer_of_cons h]

/-- Without one `bus_ack` is 0 and `bus_err`, `bus_rdata` say nothing (R75). -/
theorem portOutputs_of_same {s t : State} (h : t.answers = s.answers) :
    portOutputs s t = ⟨false, none, none, t.irq⟩ := by
  simp [portOutputs, newAnswer_of_same h]

end Sys2Proof.Machine
end

