-- ==== Sys2Proof/Tests/Slice0.lean ====
section
/-! SUPPORT. Tests on single steps, expected results from the spec's own vectors (95_test_vectors, R110, R139, R154, R160, R176), the refusals of WellFormed, and for every statement with hypotheses a witness that meets them. -/

namespace Sys2Proof.Tests

open Sys2Proof.Machine

/-! ## Helpers -/

/-- The outcome is a next state with the property `p`. -/
def nextIs (o : Outcome) (p : State → Bool) : Bool :=
  match o with
  | .next s => p s
  | .fault _ => false
  | .refused _ => false

/-- An idle engine of width `W` with the registers `x`. -/
def idleAt (W : Nat) (x : Vector Nat 8) : State := { State.resetAt ⟨W⟩ with x := x }

/-- The engine of `idleAt` with the command `cur`, `wk` in progress. -/
def runAt (W : Nat) (x : Vector Nat 8) (op : Opcode) (rd : RegSel) (wk : Work) : State :=
  { idleAt W x with phase := .run, cur := ⟨op, rd⟩, wk := wk }

/-- The operands of R139 in `x0` to `x2`, of V-I8 in `x5`, `x6`. -/
def ops : Vector Nat 8 := #v[4, 13, 497, 9, 0, 6, 9, 0xDEADBEEF]

/-! ## WellFormed: one ill-formed term for each check (R4, R103, R109) -/

theorem test_width_legal : Config.Params.Legal ⟨32⟩ ∧ Config.Params.Legal ⟨2048⟩ ∧ Config.Params.Legal ⟨8192⟩ := by decide
theorem test_width_not_multiple : ¬ Config.Params.Legal ⟨48⟩ := by decide
theorem test_width_too_small : ¬ Config.Params.Legal ⟨0⟩ := by decide
theorem test_width_too_large : ¬ Config.Params.Legal ⟨8224⟩ := by decide
theorem test_word_well_formed : CommandWord.WellFormed 0x00021031 := by decide
theorem test_word_reserved_bit : ¬ CommandWord.ReservedClear 0x000210B1 ∧ ¬ CommandWord.ReservedClear 0x80021031 := by decide
theorem test_word_opcode : ¬ CommandWord.OpcodeDefined 0x00000000 ∧ ¬ CommandWord.OpcodeDefined 0x00000006 := by decide
theorem test_word_unused_selector :
    ¬ CommandWord.UnusedSelectorsClear 0x00013243 ∧ ¬ CommandWord.UnusedSelectorsClear 0x00000105 ∧
      ¬ CommandWord.UnusedSelectorsClear 0x00001005 := by decide
theorem test_ldx_too_wide : ProgLine.wellFormed ⟨32⟩ (.ldx 0 0x100000000) = false ∧
    ProgLine.wellFormed ⟨32⟩ (.ldx 0 0xFFFFFFFF) = true := by decide

/-! ## Decoding: words written bit by bit from R100, and the words of V-D1 to V-D20 -/

/-- OP 0001, RD 011, RS1 000, RS2 001, RS3 010. -/
theorem test_decode_modexp : decode 0b0000000000000_010_0_001_0_000_0_011_0001 = .ok (.modexp 3 0 1 2) := by decide
/-- OP 0010, RD 101, RS1 010, RS2 011. -/
theorem test_decode_modinv : decode 0b0000000000000_000_0_011_0_010_0_101_0010 = .ok (.modinv 5 2 3) := by decide
/-- OP 0011, RD 100, RS1 010, RS2 011. -/
theorem test_decode_gcd : decode 0b0000000000000_000_0_011_0_010_0_100_0011 = .ok (.gcd 4 2 3) := by decide
/-- OP 0100, RD 011, RS1 000, RS2 001. -/
theorem test_decode_lcm : decode 0b0000000000000_000_0_001_0_000_0_011_0100 = .ok (.lcm 3 0 1) := by decide
/-- OP 0101, RD 111. -/
theorem test_decode_clr : decode 0b0000000000000_000_0_000_0_000_0_111_0101 = .ok (.clr 7) := by decide
/-- V-D8 to V-D12. -/
theorem test_decode_illegal_opcode_and_rs3 :
    decode 0x00000000 = .error .undefinedOpcode ∧ decode 0x00000006 = .error .undefinedOpcode ∧
    decode 0x0000000F = .error .undefinedOpcode ∧ decode 0x00013243 = .error .unusedSelector ∧
    decode 0x00010002 = .error .unusedSelector := by decide
/-- V-D13 to V-D20. -/
theorem test_decode_illegal_fields :
    decode 0x00000105 = .error .unusedSelector ∧ decode 0x00001005 = .error .unusedSelector ∧
    decode 0x000210B1 = .error .reservedBit ∧ decode 0x00021831 = .error .reservedBit ∧
    decode 0x00029031 = .error .reservedBit ∧ decode 0x000A1031 = .error .reservedBit ∧
    decode 0x80021031 = .error .reservedBit ∧ decode 0xFFFFFFFF = .error .reservedBit := by decide
theorem test_encode_worked : encode (.modexp 5 3 4 2) = 0x00024351 ∧ encode (.modinv 5 2 3) = 0x00003252 ∧
    encode (.gcd 4 2 3) = 0x00003243 ∧ encode (.lcm 3 0 1) = 0x00001034 ∧ encode (.clr 7) = 0x00000075 := by decide
theorem test_table_word : decodeTableWord 32 0x00077771 = some (.modexp 7 7 7 7) ∧ decodeTableWord 32 0 = none := by decide

/-! ## One engine step of each command, from the spec's traces -/

/-- R139, step 3: `acc` uses the old `bs`. -/
theorem test_modexp_step : stepModexp 4 256 3 497 = .cont (.exp 30 429 1 497) := by decide
/-- V-E3 (exponent 0, modulus 1: the contract's 0) and V-E10 (`MOD_ZERO`). -/
theorem test_modexp_ends : stepModexp 1 7 0 1 = .complete 0 ∧ stepModexp 1 5 3 0 = .fault .modZero := by decide
/-- R177, step 4: a coefficient of the size of the modulus. -/
theorem test_modinv_step : stepModinv 2 1 (46) (-367) 780 = .cont (.inv 1 0 (-367) 780 780) := by decide
/-- R177, step 5 (the negative coefficient), V-I8 (`NOT_COPRIME`), V-I13 (`MOD_ZERO` first). -/
theorem test_modinv_ends : stepModinv 1 0 (-367) 780 780 = .complete 413 ∧
    stepModinv 3 0 (-1) 3 9 = .fault .notCoprime ∧ stepModinv 0 0 0 1 0 = .fault .modZero := by decide
/-- R154, step 2 and step 4. -/
theorem test_gcd_step : stepGcd 18 12 = .cont (.gcd 12 6) ∧ stepGcd 6 0 = .complete 6 := by decide
/-- R160, step 4; V-L4; V-L6 (the product does not fit, the quotient does); V-L8 at `W = 32` and V-L9 at `W = 64`. -/
theorem test_lcm_ends : stepLcm 32 4 0 60 52 = .complete 780 ∧ stepLcm 32 0 0 0 0 = .fault .lcmZero ∧
    stepLcm 32 65536 0 65536 65536 = .complete 65536 ∧ stepLcm 32 1 0 65536 65537 = .fault .overflow ∧
    stepLcm 64 1 0 65536 65537 = .complete 0x100010000 := by decide
/-- V-C1: the completing step writes `x3` and sets `STATUS` to 2. -/
theorem test_clr_completes : nextIs (engineStep (runAt 32 ops 5 3 .clr))
    (fun t => t.readX 3 = 0 && t.readX 0 = 4 && t.statusWord = 2 && t.phase = .idle) = true := by decide
/-- V-E10: the faulting step keeps `x3 = 9` and sets `STATUS` to 0x204. -/
theorem test_fault_keeps_destination : nextIs (engineStep (runAt 32 ops 1 3 (.exp 1 5 3 0)))
    (fun t => t.readX 3 = 9 && t.statusWord = 0x204 && t.wk = .none) = true := by decide

/-! ## The `CMD` write and the bus -/

/-- The first instruction after reset, placed by `withFetchWord`, is accepted (R40). -/
theorem test_first_command_after_reset : nextIs (step (State.reset.withFetchWord 32 0x00000075))
    (fun t => t.phase = .run && t.cur = ⟨5, 7⟩ && t.wk = .clr && t.statusWord = 1) = true := by decide
/-- R40 with the operands of R139: sources latched. -/
theorem test_accept_latches : nextIs (exec (.modexp 3 0 1 2) (idleAt 32 ops))
    (fun t => t.wk = .exp 1 4 13 497 && t.cur = ⟨1, 3⟩ && t.readX 3 = 9) = true := by decide
/-- V-B27: an illegal word over a recorded fault. -/
theorem test_illegal_word : nextIs (memWrite { idleAt 32 ops with err := true, errcode := 2 } 0x0010 4 0)
    (fun t => t.statusWord = 0x104 && t.x = ops) = true := by decide
/-- V-B17: any `CMD` write while running is refused and sets no flag. -/
theorem test_cmd_while_busy : nextIs (memWrite (runAt 32 ops 5 3 .clr) 0x0010 4 0)
    (fun t => t.answers = [.err] && t.statusWord = 1) = true := by decide
/-- V-B3, V-B15, V-B18 and V-B10. -/
theorem test_reads : memRead (idleAt 64 ops) 0x0004 4 = .okRead 0x00080040 ∧
    memRead (idleAt 32 ops) 0x2C00 4 = .okRead 0xDEADBEEF ∧
    memRead (runAt 32 ops 5 3 .clr) 0x0010 4 = .okRead 0 ∧ memRead (idleAt 32 ops) 0x1004 4 = .err := by decide
/-- V-B9, V-B8 and V-B16. -/
theorem test_refused_reads : memRead (idleAt 32 ops) 0x1002 4 = .err ∧ memRead (idleAt 32 ops) 0x1000 2 = .err ∧
    memRead (idleAt 32 ops) 0x0014 4 = .err ∧ memRead (idleAt 32 ops) 0x3FFC 4 = .err ∧
    memRead (runAt 32 ops 5 3 .clr) 0x1000 4 = .err := by decide
/-- V-B14: only limb 0 is replaced. -/
theorem test_limb_write : nextIs (memWrite (idleAt 64 (ops.set 0 0x0123456789ABCDEF)) 0x1000 4 0)
    (fun t => t.readX 0 = 0x0123456700000000) = true := by decide
/-- V-B12: the last limb of the widest register. -/
theorem test_top_limb : nextIs (memWrite (idleAt 8192 ops) 0x13FC 4 7)
    (fun t => limb (t.readX 0) 255 = 7 && limb (t.readX 0) 254 = 0 && limb (t.readX 0) 0 = 4) = true := by
  decide +kernel
/-- V-B21 and V-B22. -/
theorem test_write_one_to_clear :
    nextIs (memWrite { idleAt 32 ops with err := true, errcode := 3 } 0x000C 4 2) (fun t => t.statusWord = 0x304) = true ∧
    nextIs (memWrite { idleAt 32 ops with err := true, errcode := 3 } 0x000C 4 4) (fun t => t.statusWord = 0) = true := by
  decide
/-- V-B24: both enables, no abort. -/
theorem test_enables : nextIs (memWrite (runAt 32 ops 5 3 .clr) 0x0008 4 0xFFFFFFEF)
    (fun t => t.ctrlWord = 3 && t.phase = .run) = true := by decide
/-- V-C4: the abort discards the command and keeps `x3`. -/
theorem test_abort : nextIs (memWrite (runAt 32 ops 1 3 (.exp 1 4 13 497)) 0x0008 4 0x10)
    (fun t => t.phase = .idle && t.wk = .none && t.readX 3 = 9 && t.statusWord = 0) = true := by decide
/-- V-B26: `irq` rises with its enable. -/
theorem test_irq : nextIs (memWrite { idleAt 32 ops with done := true } 0x0008 4 1) (fun t => t.irq) = true := by decide
/-- V-R2: `rst_n` low discards a running command. -/
theorem test_reset_discards : nextIs (step { runAt 32 ops 1 3 (.exp 1 4 13 497) with turns := [.rstLow] })
    (fun t => t.readX 0 = 0 && t.statusWord = 0 && t.phase = .idle && t.rstN = false) = true := by decide
/-- A word of P6: `LDX` at `W = 64` writes limb 0 first (R109). -/
theorem test_ldx_expands : ProgLine.expand ⟨64⟩ (.ldx 0 0x0123456789ABCDEF) =
    [wrLine 0x1000 0x89ABCDEF, wrLine 0x1004 0x01234567] := by decide
/-- `E` of R46: its five examples. -/
theorem test_euclid_iterations : euclidIters 48 18 = 3 ∧ euclidIters 18 48 = 4 ∧ euclidIters 5 0 = 0 ∧
    euclidIters 0 5 = 1 ∧ euclidIters 0 0 = 0 := by decide

/-! ## Witnesses: states of the invariant -/

theorem inv_idle : (idleAt 32 ops).Inv :=
  ⟨by decide, by decide, by decide, by decide, by decide, by decide, by decide, fun h => (nomatch h), by decide⟩

theorem inv_running_clr : (runAt 32 ops 5 3 .clr).Inv :=
  ⟨by decide, by decide, by decide, by decide, by decide, by decide, by decide, fun _ => rfl, by decide⟩

theorem inv_running_fault : (runAt 32 ops 1 3 (.exp 1 5 3 0)).Inv :=
  ⟨by decide, by decide, by decide, by decide, by decide, by decide, by decide,
    fun _ => ⟨rfl, by decide, by decide, by decide, by decide⟩, by decide⟩

theorem inv_running_modexp : (runAt 32 ops 1 3 (.exp 1 4 13 497)).Inv :=
  ⟨by decide, by decide, by decide, by decide, by decide, by decide, by decide,
    fun _ => ⟨rfl, by decide, by decide, by decide, by decide⟩, by decide⟩

theorem inv_held : ({ State.resetAt ⟨32⟩ with rstN := false } : State).Inv :=
  ⟨by decide, by decide, by decide, by decide, by decide, by decide, by decide, fun h => (nomatch h), fun _ => rfl⟩

/-! ## Witnesses: for each statement with hypotheses, operands that meet all of them together -/

/-- Abbreviation for the witnesses: an idle engine, a running `CLR`, a running `MODEXP` with modulus 0, a running `MODEXP`. -/
abbrev sIdle : State := idleAt 32 ops
abbrev sClr : State := runAt 32 ops 5 3 .clr
abbrev sZero : State := runAt 32 ops 1 3 (.exp 1 5 3 0)
abbrev sExp : State := runAt 32 ops 1 3 (.exp 1 4 13 497)

theorem witness_DecodedWordIsTheEncoding : decode 0x00000075 = .ok (.clr 7) := by decide

theorem witness_DecodeAgreesWithMaskAndMatch :
    (⟨0xFFFFFF8F, 0x00000005⟩ : OpcodeRow) ∈ opcodeMap ∧ OpcodeRow.selects ⟨0xFFFFFF8F, 0x00000005⟩ 0x00000075 = true ∧
      decode 0x00000006 = .error .undefinedOpcode := by decide

theorem witness_AcceptLatchesAndStarts : sIdle.phase = .idle ∧ decode 0x00021031 = .ok (.modexp 3 0 1 2) := by decide

theorem witness_IllegalWordIsRecorded : sIdle.phase = .idle ∧ ¬ ∃ i, decode 0x00000000 = .ok i :=
  ⟨rfl, fun ⟨_, h⟩ => nomatch (show (Except.error IllegalWord.undefinedOpcode : Except IllegalWord Instr) = .ok _ from h)⟩

theorem witness_CommandTurnedAwayWhileBusy : sClr.phase = .run := rfl

theorem witness_StepRunsTheDecodedCommand :
    let s : State := { sIdle with host := [.bus (.write 0x0010 4 0x00000075)] }
    s.nextTurn = .host ∧ s.rstN = true ∧ s.phase = .idle ∧ s.host = .bus (.write 0x0010 4 0x00000075) :: [] ∧
      decode 0x00000075 = .ok (.clr 7) ∧ decodeTableWord 32 0x00000075 = some (.clr 7) := by decide

theorem witness_CommandWriteFrame : exec (.clr 7) sIdle = .next ((sIdle.accept 5 7 .clr).respond .okWrite) ∧
    exec (.clr 7) sClr = .next (sClr.respond .err) := ⟨rfl, rfl⟩

theorem witness_EngineStepHasThreeOutcomes : sClr.Inv ∧ sClr.phase = .run ∧ sZero.Inv ∧ sZero.phase = .run ∧
    sExp.Inv ∧ sExp.phase = .run := ⟨inv_running_clr, rfl, inv_running_fault, rfl, inv_running_modexp, rfl⟩

theorem witness_CompleteWritesTheDestination :
    sClr.Inv ∧ sClr.phase = .run ∧ stepOp sClr.params.W sClr.cur.op sClr.wk = some (.complete 0) :=
  ⟨inv_running_clr, rfl, rfl⟩

theorem witness_FaultWritesNoRegister :
    sZero.Inv ∧ sZero.phase = .run ∧ stepOp sZero.params.W sZero.cur.op sZero.wk = some (.fault .modZero) :=
  ⟨inv_running_fault, rfl, rfl⟩

/-- One engine step that writes the destination, one that does not, and one while idle. -/
theorem witness_EngineStepFrame : engineStep sClr = .next (sClr.complete 0) ∧ (sClr.complete 0).readX 3 ≠ sClr.readX 3 ∧
    engineStep sZero = .next (sZero.raiseFault .modZero) ∧ engineStep sIdle = .next sIdle := by
  refine ⟨rfl, by decide, rfl, rfl⟩

theorem witness_EveryRunningCommandEnds : sExp.Inv ∧ sExp.phase = .run := ⟨inv_running_modexp, rfl⟩

/-- Modulus 497 in `x2`, modulus 0 in `x4`. -/
theorem witness_ModexpResult : sIdle.phase = .idle ∧ sIdle.readX 2 ≠ 0 ∧ sIdle.readX 4 = 0 := by decide

/-- Modulus 0 in `x4`; `gcd(6, 9) = 3` in `x5`, `x6`; `gcd(4, 9) = 1` in `x0`, `x6`. -/
theorem witness_ModinvResult : sIdle.phase = .idle ∧ sIdle.readX 4 = 0 ∧
    (sIdle.readX 6 ≠ 0 ∧ Nat.gcd (sIdle.readX 5) (sIdle.readX 6) ≠ 1) ∧
    (sIdle.readX 6 ≠ 0 ∧ Nat.gcd (sIdle.readX 0) (sIdle.readX 6) = 1) := by decide

/-- Both operands 0 (`x4`), and not both (`x5`, `x6`). -/
theorem witness_GcdResult : sIdle.phase = .idle ∧ (sIdle.readX 4 = 0 ∧ sIdle.readX 4 = 0) ∧
    ¬(sIdle.readX 5 = 0 ∧ sIdle.readX 6 = 0) := by decide

/-- Both operands 0; a multiple that fits; the boundary of V-L7 and V-L8 at `W = 32`; one operand 0. -/
theorem witness_LcmResult :
    let s := idleAt 32 #v[65535, 65537, 65536, 0, 0, 0, 0, 0]
    s.phase = .idle ∧ (s.readX 3 = 0 ∧ s.readX 4 = 0) ∧
    (¬(s.readX 0 = 0 ∧ s.readX 1 = 0) ∧ s.readX 0 * s.readX 1 / Nat.gcd (s.readX 0) (s.readX 1) < 2 ^ s.params.W) ∧
    (¬(s.readX 2 = 0 ∧ s.readX 1 = 0) ∧ 2 ^ s.params.W ≤ s.readX 2 * s.readX 1 / Nat.gcd (s.readX 2) (s.readX 1)) ∧
    (¬(s.readX 3 = 0 ∧ s.readX 1 = 0) ∧ (s.readX 3 = 0 ∨ s.readX 1 = 0)) ∧ 0 < s.readX 0 ∧ 0 < s.readX 1 := by decide

theorem witness_ClrResult : sIdle.phase = .idle := rfl

theorem witness_StepsReachTheBigStepResult : sIdle.phase = .idle ∧ stepCount (.modexp 3 0 1 2) sIdle = 5 := by decide

/-- Also a `k` on either side of each clause: `k = 0` and `k = 1` of the exponent 13. -/
theorem witness_ModexpLoopInvariant : sIdle.phase = .idle ∧ sIdle.readX 2 ≠ 0 ∧
    exec (.modexp 3 0 1 2) sIdle = .next ((sIdle.accept 1 3 (.exp 1 4 13 497)).respond .okWrite) ∧
    1 ≤ bitlen (sIdle.readX 1) ∧ sIdle.readX 1 % 2 ^ 0 = 0 ∧ sIdle.readX 1 % 2 ^ 1 ≠ 0 := by
  refine ⟨rfl, by decide, rfl, by decide, by decide, by decide⟩

theorem witness_ModinvLoopInvariant : sIdle.phase = .idle ∧ sIdle.readX 6 ≠ 0 ∧
    exec (.modinv 3 0 6) sIdle = .next ((sIdle.accept 2 3 (.inv 9 4 0 1 9)).respond .okWrite) ∧
    0 ≤ euclidIters (sIdle.readX 6) (sIdle.readX 0) := by
  refine ⟨rfl, by decide, rfl, by decide⟩

/-- The last working registers of V-I17 meet the hypotheses of the final bound: `r1 = 0`, `r0 = 1`, `n = 9`. -/
theorem witness_ModinvCoefficientsBounded : sIdle.phase = .idle ∧ sIdle.readX 6 ≠ 0 ∧
    exec (.modinv 3 0 6) sIdle = .next ((sIdle.accept 2 3 (.inv 9 4 0 1 9)).respond .okWrite) ∧
    stepModinv 9 4 0 1 9 = .cont (.inv 4 1 1 (-2) 9) ∧ stepModinv 4 1 1 (-2) 9 = .cont (.inv 1 0 (-2) 9 9) ∧
    euclidIters (sIdle.readX 6) (sIdle.readX 0) = 2 ∧ 2 ≤ sIdle.readX 6 := by
  refine ⟨rfl, by decide, rfl, by decide, by decide, by decide, by decide⟩

theorem witness_LcmFitsWhenLengthsFit : sIdle.phase = .idle ∧
    bitlen (sIdle.readX 5) + bitlen (sIdle.readX 6) ≤ sIdle.params.W ∧
    ¬(sIdle.readX 5 = 0 ∧ sIdle.readX 6 = 0) := by decide

theorem witness_ResultDependsOnlyOnSources :
    let s' : State := { idleAt 32 #v[4, 13, 497, 0, 1, 2, 3, 4] with done := true, ieErr := true }
    sIdle.phase = .idle ∧ s'.phase = .idle ∧ sIdle.params.W = s'.params.W ∧
    ∀ r ∈ (Instr.modexp 3 0 1 2).sources, sIdle.readX r = s'.readX r := by decide

/-- A running `CLR` with one engine turn. -/
theorem witness_InterleavingCannotChangeTheResult :
    let s : State := { sClr with host := [rdLine 0x000C], turns := [.host, .engine] }
    let t : State := { (sClr.complete 0) with answers := [.okRead 1] }
    s.Inv ∧ s.phase = .run ∧ s.rstN = true ∧ (∀ l ∈ s.host, l.aborts = false) ∧ 2 ≤ s.turns.length ∧
    (∀ a ∈ s.turns.take 2, a = .host ∨ a = .engine) ∧ EndsAfter 1 s (s.complete 0) ∧
    Host.Core.run core 2 s = .next t ∧ (s.turns.take 2).count .engine = 1 ∧
    (s.turns.take 2).getLast? = some .engine ∧ (s.turns.take 1).count .engine < 1 := by
  refine ⟨⟨by decide, by decide, by decide, by decide, by decide, by decide, by decide, fun _ => rfl, by decide⟩,
    rfl, rfl, by decide, by decide, by decide, EndsAfter.last rfl rfl rfl, rfl, by decide, by decide, by decide⟩

/-- `MODEXP` with the modulus register `x4 = 0` ends in a fault. -/
theorem witness_FaultsArePrecise :
    let t := (sIdle.accept 1 3 (.exp 1 4 13 0)).respond .okWrite
    sIdle.phase = .idle ∧ exec (.modexp 3 0 1 4) sIdle = .next t ∧ EndsAfter 1 t (t.raiseFault .modZero) ∧
    (t.raiseFault .modZero).err = true :=
  ⟨rfl, rfl, EndsAfter.last rfl rfl rfl, rfl⟩

/-- Each clause of R213 at a boundary: alignment, the first and last unmapped offsets, the first absent limb, a window and `CMD` while busy; and an accepted neighbour of each. -/
theorem witness_BusErrorsExactly :
    memRead sIdle 0x0002 4 = .err ∧ memRead sIdle 0x0014 4 = .err ∧ memRead sIdle 0x0FFC 4 = .err ∧
    memRead sIdle 0x3000 4 = .err ∧ memRead sIdle 0x1004 4 = .err ∧ memRead sClr 0x1000 4 = .err ∧
    memRead sIdle 0x1000 4 = .okRead 4 ∧ memRead sIdle 0x2C00 4 = .okRead 0xDEADBEEF ∧
    nextIs (memWrite sClr 0x0010 4 5) (fun t => t.answers = [.err]) = true ∧
    nextIs (memWrite sIdle 0x0004 4 5) (fun t => t.answers = [.err]) = true ∧
    nextIs (memWrite sIdle 0x0008 4 5) (fun t => t.answers = [.okWrite]) = true := by decide

theorem witness_ReadsHaveNoSideEffect :
    transact sIdle (.read 0x1000 4) = .next (sIdle.respond (memRead sIdle 0x1000 4)) := rfl

theorem witness_WindowAddressing : sIdle.params.Legal ∧ 0 < sIdle.params.L ∧ sIdle.phase = .idle ∧
    xaddr 7 255 = 0x2FFC ∧ (0x1000 ≤ 0x2FFC ∧ 0x2FFC ≤ 0x2FFF ∧ 0x2FFC % 4 = 0) := by decide

theorem witness_RegisterIsTheSumOfItsLimbs : Config.Params.Legal ⟨32⟩ ∧ 0xFFFFFFFF < 2 ^ (Config.Params.mk 32).W := by decide

theorem witness_LimbWriteReplacesOneLimb : sIdle.params.Legal ∧ 0 < sIdle.params.L ∧ sIdle.phase = .idle ∧
    sIdle.readX 7 < 2 ^ sIdle.params.W := by decide

theorem witness_WritingAllLimbsLoadsTheValue :
    Config.Params.Legal ⟨64⟩ ∧ 0xFFFFFFFFFFFFFFFF < 2 ^ (Config.Params.mk 64).W ∧ 1 < 2 ^ (Config.Params.mk 64).W := by decide

theorem witness_IdAndParamAreConstant : (runAt 8192 ops 5 3 .clr).params.Legal := by decide

theorem witness_EnablesWrite : (0xFFFFFFEF : Word)[4] = false := by decide

theorem witness_AbortDiscardsTheCommand : sClr.Inv ∧ sClr.phase = .run ∧ sIdle.Inv ∧ sIdle.phase = .idle ∧
    (0x10 : Word)[4] = true := ⟨inv_running_clr, rfl, inv_idle, rfl, by decide⟩

theorem witness_StatusWriteOneToClear : sClr.Inv ∧ sClr.phase = .run := ⟨inv_running_clr, rfl⟩

/-- An accepted command, a completing and a faulting step, an illegal word, and the clear. -/
theorem witness_InterruptFollowsTheFlags : sIdle.Inv ∧ sIdle.phase = .idle ∧
    exec (.clr 7) sIdle = .next ((sIdle.accept 5 7 .clr).respond .okWrite) ∧
    (sClr.Inv ∧ sClr.phase = .run ∧ engineStep sClr = .next (sClr.complete 0) ∧ (sClr.complete 0).phase = .idle) ∧
    (¬ ∃ i, decode 0x00000000 = .ok i) ∧ memWrite sIdle 0x0010 4 0 = .next (sIdle.illegalCommand.respond .okWrite) ∧
    memWrite sIdle 0x000C 4 6 = .next ((sIdle.writeStatus 6).respond .okWrite) :=
  ⟨inv_idle, rfl, rfl, ⟨inv_running_clr, rfl, rfl, rfl⟩, witness_IllegalWordIsRecorded.2, rfl, rfl⟩

theorem witness_PortSizeMustBeFourBytes :
    let r : PortRequest := ⟨true, true, 3, 0x0008, 0⟩
    r.req = true ∧ r.size ≠ 2 := by decide

theorem witness_PortPresentsTransactions :
    (PortRequest.mk false true 2 0x0010 0).req = false ∧
    (PortRequest.mk true false 3 0x3FFF 0).presented = some (.read 0x3FFF 8) ∧
    (PortRequest.mk true true 0 0x0000 7).presented = some (.write 0x0000 1 7) := by decide

/-- A `STATUS` read presented, acknowledged in the host's turn, and held in the engine's turn and in reset. -/
theorem witness_PortHandshake :
    let s : State := { sClr with host := [rdLine 0x000C] }
    let r : PortRequest := ⟨true, false, 2, 0x000C, 0⟩
    r.Drives s ∧
    nextIs (step { s with turns := [.host] }) (fun t => portOutputs s t = ⟨true, some false, some 1, false⟩ && !t.busReq) ∧
    nextIs (step { s with turns := [.engine] }) (fun t => portOutputs s t = ⟨false, none, none, false⟩ && t.busReq) ∧
    nextIs (step { s with turns := [.host], rstN := false })
      (fun t => portOutputs s t = ⟨false, none, none, false⟩ && t.busReq) := ⟨rfl, by decide, by decide, by decide⟩

theorem witness_WaitPollsUntilNotBusy :
    let s : State := { sClr with host := [.wait], turns := [.host] }
    let s' : State := { sIdle with host := [.wait] }
    (s.Inv ∧ s.rstN = true ∧ s.nextTurn = .host ∧ s.host = .wait :: [] ∧ s.phase = .run) ∧
    (s'.Inv ∧ s'.rstN = true ∧ s'.nextTurn = .host ∧ s'.host = .wait :: [] ∧ s'.phase = .idle) :=
  ⟨⟨⟨by decide, by decide, by decide, by decide, by decide, by decide, by decide, fun _ => rfl, by decide⟩,
      rfl, rfl, rfl, rfl⟩,
    ⟨by decide, by decide, by decide, by decide, by decide, by decide, by decide, fun h => (nomatch h), by decide⟩,
      rfl, rfl, rfl, rfl⟩

theorem witness_AbortMacroKeepsTheEnables :
    let s : State := { sClr with ieErr := true, host := [rdLine 0x0008, .abortWrite], turns := [.host, .host] }
    s.rstN = true ∧ s.phase = .run ∧ s.host = rdLine 0x0008 :: .abortWrite :: [] ∧ s.turns = [.host, .host] := by decide

theorem witness_ResetValues :
    let s : State := { sExp with turns := [.rstLow, .rstHigh] }
    s.params.Legal ∧ s.turns = [.rstLow, .rstHigh] ∧ 0 < s.params.L := by decide

theorem witness_HeldInReset :
    let s : State := { State.resetAt ⟨32⟩ with rstN := false }
    s.Inv ∧ s.rstN = false ∧ (s.nextTurn = .host ∨ s.nextTurn = .engine) := ⟨inv_held, rfl, .inl rfl⟩

theorem witness_InvariantAtReset : Config.Params.Legal ⟨2048⟩ := by decide

theorem witness_EveryStepKeepsTheInvariant : sClr.Inv ∧ step sClr = .next (sClr.complete 0) := ⟨inv_running_clr, rfl⟩

theorem witness_StatusInvariants : sClr.Inv ∧ Host.Core.run core 1 sClr = .next (sClr.complete 0) := ⟨inv_running_clr, rfl⟩

theorem witness_NoRunIsEverStopped : sZero.Inv := inv_running_fault

theorem witness_WidthNeverChanges : step sZero = .next (sZero.raiseFault .modZero) := rfl

/-- Each way a register changes: the engine's completion, a limb write, a reset. -/
theorem witness_OnlyTheseChangeARegister :
    (step sClr = .next (sClr.complete 0) ∧ (sClr.complete 0).readX 3 ≠ sClr.readX 3) ∧
    (let s : State := { sIdle with host := [wrLine 0x1000 7] }
     nextIs (step s) (fun t => t.readX 0 ≠ s.readX 0) = true) ∧
    (let s : State := { sIdle with turns := [.rstLow] }
     nextIs (step s) (fun t => t.readX 0 ≠ s.readX 0) = true) := by
  refine ⟨⟨rfl, by decide⟩, by decide, by decide⟩

theorem witness_HostCannotDisturbARunningCommand :
    let s : State := { sClr with host := [wrLine 0x1000 7], turns := [.host] }
    s.Inv ∧ s.phase = .run ∧ s.rstN = true ∧ s.nextTurn = .host ∧
    (∀ l rest, s.host = l :: rest → l.aborts = false) ∧
    step s = .next { s with host := [], turns := [], answers := [.err] } := by
  refine ⟨⟨by decide, by decide, by decide, by decide, by decide, by decide, by decide, fun _ => rfl, by decide⟩,
    rfl, rfl, rfl, ?_, rfl⟩
  intro l rest h
  cases h
  rfl

end Sys2Proof.Tests
end

/-! The scope of the model (00_scope): the parameters are fixed (R4), whichever agent moves (R7). -/

namespace Sys2Proof.Machine

/-- A host step, answered or held off by reset, keeps the parameters (R7, R240). -/
theorem hostMove_params {s t : State} (h : hostMove s = .next t) : t.params = s.params := by
  rcases hostMove_cases h with ⟨-, rfl⟩ | ⟨-, -, rfl⟩ | ⟨-, x, -, hx⟩
  · simp
  · rfl
  · obtain ⟨-, hparams, -⟩ := transact_frame hx
    rw [hparams, State.nextLine_params]

/-- An engine step keeps the parameters, whether it continues, completes or faults (R43). -/
theorem engineStep_params {s t : State} (h : engineStep s = .next t) : t.params = s.params := by
  rcases engineStep_cases h with ⟨-, rfl⟩ | ⟨-, r, -, rfl⟩
  · rfl
  · exact (s.apply_frame r).1

/-- The engine's turn keeps the parameters, in reset and out of it (R42, R240). -/
theorem engineMove_params {s t : State} (h : engineMove s = .next t) : t.params = s.params := by
  rcases engineMove_cases h with ⟨-, rfl⟩ | ⟨-, hstep⟩
  · simp
  · exact engineStep_params hstep

/-- The falling edge of `rst_n` resets the block's state, and the parameters are no part of it (R4, R240). -/
@[simp] theorem resetAssert_params (s : State) : (resetAssert s).params = s.params := rfl

/-- The rising edge of `rst_n` keeps the parameters (R4, R240). -/
@[simp] theorem resetRelease_params (s : State) : (resetRelease s).params = s.params := by
  unfold resetRelease; split <;> rfl

/-- Settles O54, by the agent that moves: the host, the engine, or an edge of the reset input. -/
theorem widthNeverChanges : Obligations.WidthNeverChanges := by
  intro s t h
  rcases step_cases h with ⟨-, hhost⟩ | ⟨-, hengine⟩ | ⟨-, rfl⟩ | ⟨-, rfl⟩
  · simpa using hostMove_params hhost
  · simpa using engineMove_params hengine
  · simp
  · simp

end Sys2Proof.Machine

namespace Sys2Proof.Machine

/-! ## Runs to their end

A command run seen from its working registers alone: which outcome `Step_op` reaches, and after how many steps (R42 to R46). -/

/-- From the working registers `wk`, step number `T` of `Step_op` is the first that does not continue, and its outcome is `r`. -/
inductive RunEnds (W : Nat) (op : Opcode) : Nat → Work → StepResult → Prop where
  /-- The next step ends the run. -/
  | last {wk : Work} {r : StepResult} (h : stepOp W op wk = some r) (hr : ∀ w, r ≠ .cont w) : RunEnds W op 1 wk r
  /-- The next step continues, and the run ends from there. -/
  | more {T : Nat} {wk wk' : Work} {r : StepResult} (h : stepOp W op wk = some (.cont wk'))
      (hr : RunEnds W op T wk' r) : RunEnds W op (T + 1) wk r

/-- The outcome of a run is a completion or a fault. -/
theorem RunEnds.ne_cont {W T : Nat} {op : Opcode} {wk : Work} {r : StepResult} (h : RunEnds W op T wk r) :
    ∀ w, r ≠ .cont w := by
  induction h with
  | last _ hr => exact hr
  | more _ _ ih => exact ih

/-- A step that ends the command zeroises the working registers, so what they held is forgotten (R33, R44, R45). -/
theorem State.apply_wk (s : State) {r : StepResult} (hr : ∀ w, r ≠ .cont w) (wk : Work) :
    { s with wk := wk }.apply r = s.apply r := by
  cases r with
  | cont w => exact absurd rfl (hr w)
  | complete v => rfl
  | fault c => rfl

/-- After a step that does not continue the engine is idle (R44, R45). -/
theorem State.apply_phase (s : State) {r : StepResult} (hr : ∀ w, r ≠ .cont w) : (s.apply r).phase = .idle := by
  cases r with
  | cont w => exact absurd rfl (hr w)
  | complete v => rfl
  | fault c => rfl

/-- The engine takes a machine through the run of its working registers (R42, R43). -/
theorem RunEnds.endsAfter {W T : Nat} {op : Opcode} {wk : Work} {r : StepResult} (h : RunEnds W op T wk r)
    {s : State} (hW : s.params.W = W) (hop : s.cur.op = op) (hwk : s.wk = wk) (hp : s.phase = .run) :
    EndsAfter T s (s.apply r) := by
  induction h generalizing s with
  | last h hr =>
    subst hW hop hwk
    exact .last hp (engineStep_run hp h) (s.apply_phase hr)
  | more h hr ih =>
    subst hW hop hwk
    refine .more hp (engineStep_run hp h) ?_
    rw [← s.apply_wk hr.ne_cont]
    exact ih rfl rfl rfl hp

/-! The loop of each command -/

/-- One iteration of square and multiply keeps `acc * bs^ex` modulo `md` (R132). -/
theorem modexp_iteration (acc bs ex md : Nat) :
    (if ex % 2 = 1 then mulmod acc bs md else acc) * mulmod bs bs md ^ (ex / 2) % md = acc * bs ^ ex % md := by
  have hsq : mulmod bs bs md ^ (ex / 2) ≡ bs ^ (2 * (ex / 2)) [MOD md] := by
    rw [pow_mul, pow_two]; exact (Nat.mod_modEq _ _).pow _
  split
  · have hex : bs ^ ex = bs * bs ^ (2 * (ex / 2)) := by rw [← pow_succ']; congr 1; omega
    rw [hex, ← Nat.mul_assoc]
    exact (Nat.mod_modEq _ _).mul hsq
  · have hex : ex = 2 * (ex / 2) := by omega
    conv_rhs => rw [hex]
    exact hsq.mul_left acc

/-- `MODEXP` with a modulus ends in `acc * bs^ex mod md`, one step per bit of the exponent and the final one (R131, R132, R134). -/
theorem runEnds_modexp (W : Nat) {md : Nat} (hmd : md ≠ 0) (acc bs ex : Nat) :
    RunEnds W 1 (bitlen ex + 1) (.exp acc bs ex md) (.complete (acc * bs ^ ex % md)) := by
  induction ex using Nat.strong_induction_on generalizing acc bs with
  | _ ex ih =>
    by_cases hex : ex = 0
    · subst hex
      exact .last (by simp [stepOp, stepModexp, hmd]) nofun
    · rw [bitlen_half hex, ← modexp_iteration]
      exact .more (by simp [stepOp, stepModexp, hmd, hex]) (ih (ex / 2) (by omega) _ _)

/-- One Euclidean iteration keeps the gcd (R151). -/
theorem gcd_iteration (u v : Nat) : Nat.gcd u v = Nat.gcd v (u % v) := by
  rw [Nat.gcd_comm, Nat.gcd_rec, Nat.gcd_comm]

/-- The Euclidean iteration of `GCD` ends in the gcd (R151). -/
theorem runEnds_gcd (W u v : Nat) :
    RunEnds W 3 (euclidIters u v + 1) (.gcd u v) (.complete (Nat.gcd u v)) := by
  induction v using Nat.strong_induction_on generalizing u with
  | _ v ih =>
    by_cases hv : v = 0
    · subst hv
      exact .last (by simp [stepOp, stepGcd]) nofun
    · rw [euclidIters_step hv, gcd_iteration]
      exact .more (by simp [stepOp, stepGcd, hv]) (ih (u % v) (Nat.mod_lt _ (by omega)) v)

/-- The final step of `LCM` never continues. -/
theorem stepLcm_last_ne_cont (W u pa pb : Nat) (w : Work) : stepLcm W u 0 pa pb ≠ .cont w := by
  unfold stepLcm; split
  · nofun
  · simp only [ne_eq, not_true_eq_false, ↓reduceIte]; split <;> nofun

/-- The Euclidean iteration of `LCM` ends with the final step at the gcd of the pair (R155, R156). -/
theorem runEnds_lcm (W u v : Nat) {pa pb : Nat} (h : ¬(pa = 0 ∧ pb = 0)) :
    RunEnds W 4 (euclidIters u v + 1) (.lcm u v pa pb) (stepLcm W (Nat.gcd u v) 0 pa pb) := by
  induction v using Nat.strong_induction_on generalizing u with
  | _ v ih =>
    by_cases hv : v = 0
    · subst hv
      exact .last (by simp [stepOp]) (stepLcm_last_ne_cont _ _ _ _)
    · rw [euclidIters_step hv, gcd_iteration]
      exact .more (by simp [stepOp, stepLcm, h, hv]) (ih (u % v) (Nat.mod_lt _ (by omega)) v)

/-- The final step of `MODINV` never continues. -/
theorem stepModinv_last_ne_cont (r0 : Nat) (t0 t1 : Int) (md : Nat) (w : Work) :
    stepModinv r0 0 t0 t1 md ≠ .cont w := by
  unfold stepModinv; split
  · nofun
  · simp only [ne_eq, not_true_eq_false, ↓reduceIte]; split <;> nofun

/-- The remainder `r0 - q*r1` of R170 is `r0 mod r1`. -/
theorem sub_div_mul_eq_mod (r0 r1 : Nat) : r0 - r0 / r1 * r1 = r0 % r1 := by
  rw [Nat.mul_comm, Nat.mod_eq_sub_mul_div]

/-- One iteration of the extended Euclidean algorithm keeps `t1 * a ≡ r1` modulo `md` (R172). -/
theorem modinv_iteration {md r0 r1 : Nat} {t0 t1 a : Int} (h0 : (md : Int) ∣ t0 * a - r0)
    (h1 : (md : Int) ∣ t1 * a - r1) :
    (md : Int) ∣ (t0 - (r0 / r1 : Nat) * t1) * a - (r0 % r1 : Nat) := by
  have hr : ((r0 % r1 : Nat) : Int) = r0 - (r0 / r1 : Nat) * r1 := by
    rw [Int.natCast_mod, Int.emod_def]; push_cast; ring
  have heq : (t0 - (r0 / r1 : Nat) * t1) * a - (r0 % r1 : Nat) =
      (t0 * a - r0) - (r0 / r1 : Nat) * (t1 * a - r1) := by rw [hr]; ring
  rw [heq]
  exact dvd_sub h0 (h1.mul_left _)

/-- The extended Euclidean iteration of `MODINV` ends with the final step at the gcd, and the coefficient it ends with carries whatever `a` the first ones carry (R171, R172). -/
theorem runEnds_modinv (W : Nat) {md : Nat} (hmd : md ≠ 0) (r0 r1 : Nat) (t0 t1 : Int) :
    ∃ t t' : Int, RunEnds W 2 (euclidIters r0 r1 + 1) (.inv r0 r1 t0 t1 md) (stepModinv (Nat.gcd r0 r1) 0 t t' md) ∧
      ∀ a : Int, (md : Int) ∣ t0 * a - r0 → (md : Int) ∣ t1 * a - r1 → (md : Int) ∣ t * a - Nat.gcd r0 r1 := by
  induction r1 using Nat.strong_induction_on generalizing r0 t0 t1 with
  | _ r1 ih =>
    by_cases hr1 : r1 = 0
    · subst hr1
      rw [Nat.gcd_zero_right]
      exact ⟨t0, t1, .last (by simp [stepOp]) (stepModinv_last_ne_cont _ _ _ _), fun a h0 _ => h0⟩
    · obtain ⟨t, t', hrun, ht⟩ := ih (r0 % r1) (Nat.mod_lt _ (by omega)) r1 t1 (t0 - (r0 / r1 : Nat) * t1)
      rw [euclidIters_step hr1, gcd_iteration r0]
      refine ⟨t, t', .more ?_ hrun, fun a h0 h1 => ht a h1 (modinv_iteration h0 h1)⟩
      simp [stepOp, stepModinv, hmd, hr1, sub_div_mul_eq_mod]

/-- From working registers of the command's shape the run comes to its end (R46). -/
theorem Work.Fits.runEnds {W : Nat} {op : Opcode} {wk : Work} (h : wk.Fits W op) : ∃ T r, RunEnds W op T wk r := by
  cases wk with
  | none => exact h.elim
  | exp acc bs ex md =>
    obtain ⟨rfl, -⟩ := h
    by_cases hmd : md = 0
    · exact ⟨1, .fault .modZero, .last (by simp [stepOp, stepModexp, hmd]) nofun⟩
    · exact ⟨_, _, runEnds_modexp W hmd acc bs ex⟩
  | inv r0 r1 t0 t1 md =>
    obtain ⟨rfl, -⟩ := h
    by_cases hmd : md = 0
    · exact ⟨1, .fault .modZero, .last (by simp [stepOp, stepModinv, hmd]) nofun⟩
    · obtain ⟨t, t', hrun, -⟩ := runEnds_modinv W hmd r0 r1 t0 t1
      exact ⟨_, _, hrun⟩
  | gcd u v =>
    obtain ⟨rfl, -⟩ := h
    exact ⟨_, _, runEnds_gcd W u v⟩
  | lcm u v pa pb =>
    obtain ⟨rfl, -⟩ := h
    by_cases hz : pa = 0 ∧ pb = 0
    · exact ⟨1, .fault .lcmZero, .last (by simp [stepOp, stepLcm, hz]) nofun⟩
    · exact ⟨_, _, runEnds_lcm W u v hz⟩
  | clr =>
    cases (show op = 5 from h)
    exact ⟨1, .complete 0, .last (by simp [stepOp, stepClr]) nofun⟩

/-- Settles O16: the working registers have their command's shape, so their run ends, and the engine follows it. -/
theorem everyRunningCommandEnds : Obligations.EveryRunningCommandEnds := by
  intro s hinv hrun
  obtain ⟨T, r, hends⟩ := (hinv.shaped hrun).runEnds
  exact ⟨T, s.apply r, hends.endsAfter rfl rfl rfl hrun⟩

end Sys2Proof.Machine

namespace Sys2Proof.Machine

/-! ## Big-step results

Every command's run, from its `Init` to its end, meets the table of R46 and the result its family file states (R11). -/

/-- The inverse is unique: every `t` with `t * a ≡ 1` modulo `n` has the representative of the Bezout coefficient (R171, R175). -/
theorem emod_eq_of_inverse {a n : Nat} {t : Int} (hg : Nat.gcd a n = 1) (ht : (n : Int) ∣ t * a - 1) :
    emod t n = emod (Nat.gcdA a n) n := by
  have hbez : (1 : Int) = a * Nat.gcdA a n + n * Nat.gcdB a n := by
    rw [← Nat.gcd_eq_gcd_ab, hg]; rfl
  have hmul : (n : Int) ∣ (a : Int) * (Nat.gcdA a n - t) := by
    have heq : (a : Int) * (Nat.gcdA a n - t) = -(t * a - 1) - n * Nat.gcdB a n := by
      linear_combination -hbez
    rw [heq]
    exact dvd_sub (ht.neg_right) (dvd_mul_right _ _)
  have hcop : IsCoprime (n : Int) a := (Nat.isCoprime_iff_coprime.2 hg).symm
  have hmod : t % n = Nat.gcdA a n % n := Int.modEq_iff_dvd.2 (hcop.dvd_of_dvd_mul_left hmul)
  unfold emod
  rw [hmod]

/-- From a command's `Init` the run takes the steps of the table of R46 and ends in its big-step result. -/
theorem runEnds_bigStep (i : Instr) (s : State) :
    RunEnds s.params.W i.opcode (stepCount i s) (initOp i s) (bigStep i s) := by
  cases i with
  | modexp rd rs1 rs2 rs3 =>
    simp only [stepCount, bigStep, initOp, initModexp]
    split
    next hm => exact .last (by simp [stepOp, stepModexp, Instr.opcode, hm]) nofun
    next hm => simpa [Instr.opcode] using runEnds_modexp s.params.W hm 1 (s.readX rs1) (s.readX rs2)
  | modinv rd rs1 rs2 =>
    simp only [stepCount, bigStep, initOp, initModinv]
    split
    next hn => exact .last (by simp [stepOp, stepModinv, Instr.opcode, hn]) nofun
    next hn =>
      obtain ⟨t, t', hrun, ht⟩ := runEnds_modinv s.params.W hn (s.readX rs2) (s.readX rs1) 0 1
      have hinverse := ht (s.readX rs1) (by simp) (by simp)
      rw [Nat.gcd_comm] at hrun hinverse
      split
      next hg => simpa [Instr.opcode, stepModinv, hn, hg] using hrun
      next hg =>
        rw [not_not] at hg
        rw [hg] at hrun hinverse
        rw [← emod_eq_of_inverse hg hinverse]
        simpa [Instr.opcode, stepModinv, hn] using hrun
  | gcd rd rs1 rs2 => exact runEnds_gcd _ _ _
  | lcm rd rs1 rs2 =>
    simp only [stepCount, bigStep, initOp, initLcm]
    split
    next hz => exact .last (by simp [stepOp, stepLcm, Instr.opcode, hz]) nofun
    next hz => simpa [Instr.opcode, stepLcm, hz] using runEnds_lcm s.params.W (s.readX rs1) (s.readX rs2) hz
  | clr rd => exact .last (by simp [stepOp, stepClr, Instr.opcode, bigStep, initOp, initClr]) nofun

/-- The state right after an accepted command, its `CMD` write answered (R40). -/
def State.accepted (s : State) (i : Instr) : State :=
  (s.accept i.opcode i.rd (initOp i s)).respond .okWrite

/-- While idle every command is accepted (R40). -/
theorem exec_idle (i : Instr) {s : State} (h : s.phase = .idle) : exec i s = .next (s.accepted i) := by
  rw [exec_eq_issue, State.issue_idle h]; rfl

/-- An accepted command ends after `stepCount` engine steps, with its big-step result applied (R11, R46). -/
theorem accepted_endsAfter (i : Instr) (s : State) :
    EndsAfter (stepCount i s) (s.accepted i) ((s.accepted i).apply (bigStep i s)) :=
  (runEnds_bigStep i s).endsAfter rfl rfl rfl rfl

/-- Settles O23: the accepted command's working registers run to the big-step result, and the engine with them. -/
theorem stepsReachTheBigStepResult : Obligations.StepsReachTheBigStepResult :=
  fun i s hidle => ⟨_, _, exec_idle i hidle, accepted_endsAfter i s, rfl⟩

/-! Only the width and the sources count (R51) -/

section SameSources

variable {i : Instr} {s s' : State} (hW : s.params.W = s'.params.W) (hx : ∀ r ∈ i.sources, s.readX r = s'.readX r)
include hx

/-- The number of steps depends on the source registers only. -/
theorem stepCount_congr : stepCount i s = stepCount i s' := by
  cases i <;> simp_all [Instr.sources, stepCount]

include hW

/-- The result depends on the width and the source registers only. -/
theorem bigStep_congr : bigStep i s = bigStep i s' := by
  cases i <;> simp_all [Instr.sources, bigStep]

end SameSources

/-- The flags and, on completion, the destination after a command depend on its result only (R44, R45). -/
theorem accepted_apply_congr (i : Instr) (s s' : State) (r : StepResult) :
    let u := (s.accepted i).apply r
    let u' := (s'.accepted i).apply r
    u.done = u'.done ∧ u.err = u'.err ∧ u.errcode = u'.errcode ∧ (u.done = true → u.readX i.rd = u'.readX i.rd) := by
  cases r with
  | cont w => exact ⟨rfl, rfl, rfl, nofun⟩
  | fault c => exact ⟨rfl, rfl, rfl, nofun⟩
  | complete v =>
    refine ⟨rfl, rfl, rfl, fun _ => ?_⟩
    have hdest : ∀ q : State, ((q.accepted i).complete v).readX i.rd = v :=
      fun q => (q.accepted i).readX_writeX_same i.rd v
    exact (hdest s).trans (hdest s').symm

/-- Settles O28: both runs have the same count of steps and the same big-step result. -/
theorem resultDependsOnlyOnSources : Obligations.ResultDependsOnlyOnSources := by
  intro i s s' hidle hidle' hW hx
  have hends' := accepted_endsAfter i s'
  rw [← stepCount_congr hx, ← bigStep_congr hW hx] at hends'
  exact ⟨stepCount i s, _, _, _, _, exec_idle i hidle, exec_idle i hidle', accepted_endsAfter i s, hends',
    accepted_apply_congr i s s' _⟩

end Sys2Proof.Machine

namespace Sys2Proof.Machine

/-! ## The invariant

Every outcome of `Step_op` fits R43, and every operation of the block keeps `State.Inv`. -/

/-- What R43 lets an engine step answer: working registers of the same shape, a `W`-bit value, a fault code from 2 to 5. -/
def StepResult.Fits (W : Nat) (op : Opcode) : StepResult → Prop
  | .cont wk => wk.Fits W op
  | .complete v => v < 2 ^ W
  | .fault c => 2 ≤ c.code.toNat ∧ c.code.toNat ≤ 5

theorem stepModexp_fits {W acc bs ex md : Nat} (h : (Work.exp acc bs ex md).Fits W 1) :
    (stepModexp acc bs ex md).Fits W 1 := by
  obtain ⟨-, hacc, hbs, hex, hmd⟩ := h
  unfold stepModexp
  split
  · exact ⟨by decide, by decide⟩
  · have hlt : ∀ n, n % md < 2 ^ W := fun n => (Nat.mod_lt n (by omega)).trans hmd
    split
    · exact hlt _
    · refine ⟨rfl, ?_, hlt _, (Nat.div_le_self ex 2).trans_lt hex, hmd⟩
      split
      · exact hlt _
      · exact hacc

theorem stepGcd_fits {W u v : Nat} (h : (Work.gcd u v).Fits W 3) : (stepGcd u v).Fits W 3 := by
  obtain ⟨-, hu, hv⟩ := h
  unfold stepGcd
  split
  · exact hu
  · exact ⟨rfl, hv, (Nat.mod_lt u (by omega)).trans hv⟩

theorem stepLcm_fits {W u v pa pb : Nat} (h : (Work.lcm u v pa pb).Fits W 4) : (stepLcm W u v pa pb).Fits W 4 := by
  obtain ⟨-, hu, hv, hpa, hpb, hgcd⟩ := h
  unfold stepLcm
  split
  · exact ⟨by decide, by decide⟩
  split
  · exact ⟨rfl, hv, (Nat.mod_lt u (by omega)).trans hv, hpa, hpb, (gcd_iteration u v).symm.trans hgcd⟩
  split
  · exact ⟨by decide, by decide⟩
  · exact Nat.lt_of_not_le ‹_›

/-- The signed coefficients of `MODINV` alternate in sign, so their sizes add up (R174). -/
theorem natAbs_sub_mul {t0 t1 : Int} (q : Nat) (h : t0 * t1 ≤ 0) :
    (t0 - q * t1).natAbs = t0.natAbs + q * t1.natAbs := by
  zify
  rcases mul_nonpos_iff.1 h with ⟨h0, h1⟩ | ⟨h0, h1⟩
  · have hq : q * t1 ≤ 0 := mul_nonpos_of_nonneg_of_nonpos (Int.natCast_nonneg q) h1
    rw [abs_of_nonneg h0, abs_of_nonpos h1, abs_of_nonneg (by omega)]; ring
  · have hq : 0 ≤ q * t1 := mul_nonneg (Int.natCast_nonneg q) h1
    rw [abs_of_nonpos h0, abs_of_nonneg h1, abs_of_nonpos (by omega)]; ring

/-- The coefficient relation of `Work.Fits` is kept by one iteration (R174). -/
theorem coefficients_iteration {r0 r1 md : Nat} {t0 t1 : Int} (h : t0 * t1 ≤ 0)
    (hsum : t1.natAbs * r0 + t0.natAbs * r1 = md) :
    t1 * (t0 - (r0 / r1 : Nat) * t1) ≤ 0 ∧
      (t0 - (r0 / r1 : Nat) * t1).natAbs * r1 + t1.natAbs * (r0 % r1) = md := by
  constructor
  · nlinarith [mul_nonneg (Int.natCast_nonneg (r0 / r1)) (mul_self_nonneg t1)]
  · rw [natAbs_sub_mul _ h, ← hsum]
    conv_rhs => rw [← Nat.div_add_mod r0 r1]
    ring

theorem stepModinv_fits {W r0 r1 md : Nat} {t0 t1 : Int} (h : (Work.inv r0 r1 t0 t1 md).Fits W 2) :
    (stepModinv r0 r1 t0 t1 md).Fits W 2 := by
  obtain ⟨-, hr0, hr1, hmd, hcoef⟩ := h
  unfold stepModinv
  split
  · exact ⟨by decide, by decide⟩
  rename_i hz
  obtain ⟨hpos, ht0, hsign, hsum⟩ := hcoef hz
  split
  · rename_i hne
    rw [sub_div_mul_eq_mod]
    obtain ⟨hsign', hsum'⟩ := coefficients_iteration hsign hsum
    have ht1 : t1.natAbs ≤ md := (Nat.le_mul_of_pos_right _ hpos).trans (hsum ▸ Nat.le_add_right _ _)
    exact ⟨rfl, hr1, (Nat.mod_lt r0 (by omega)).trans hr1, hmd, fun _ => ⟨by omega, ht1, hsign', hsum'⟩⟩
  split
  · exact ⟨by decide, by decide⟩
  · exact (emod_lt t0 hz).trans hmd

/-- On working registers of the command's shape `Step_op` is defined, and its outcome is one of R43. -/
theorem Work.Fits.exists_stepOp {W : Nat} {op : Opcode} {wk : Work} (h : wk.Fits W op) :
    ∃ r, stepOp W op wk = some r ∧ r.Fits W op := by
  cases wk with
  | none => exact h.elim
  | exp acc bs ex md => obtain rfl : op = 1 := h.1; exact ⟨_, rfl, stepModexp_fits h⟩
  | inv r0 r1 t0 t1 md => obtain rfl : op = 2 := h.1; exact ⟨_, rfl, stepModinv_fits h⟩
  | gcd u v => obtain rfl : op = 3 := h.1; exact ⟨_, rfl, stepGcd_fits h⟩
  | lcm u v pa pb => obtain rfl : op = 4 := h.1; exact ⟨_, rfl, stepLcm_fits h⟩
  | clr => obtain rfl : op = 5 := h; exact ⟨_, rfl, Nat.two_pow_pos W⟩

/-- A command's `Init` has the command's shape (R33, R40). -/
theorem initOp_fits (i : Instr) {s : State} (h : s.Inv) : (initOp i s).Fits s.params.W i.opcode := by
  have hx := h.bounded
  have hone : 1 < 2 ^ s.params.W := Nat.one_lt_two_pow (by have := h.legal; omega)
  cases i with
  | modexp rd rs1 rs2 rs3 => exact ⟨rfl, hone, hx _, hx _, hx _⟩
  | modinv rd rs1 rs2 => exact ⟨rfl, hx _, hx _, hx _, fun hn => ⟨by omega, by simp, by simp, by simp⟩⟩
  | gcd rd rs1 rs2 => exact ⟨rfl, hx _, hx _⟩
  | lcm rd rs1 rs2 => exact ⟨rfl, hx _, hx _, hx _, hx _, rfl⟩
  | clr rd => rfl

/-- A running command's step is defined and its outcome is one of R43. -/
theorem State.Inv.exists_stepOp {s : State} (h : s.Inv) (hrun : s.phase = .run) :
    ∃ r, stepOp s.params.W s.cur.op s.wk = some r ∧ r.Fits s.params.W s.cur.op :=
  (h.shaped hrun).exists_stepOp

/-- Settles O12: by the shape of the working registers, then outcome by outcome. -/
theorem engineStepHasThreeOutcomes : Obligations.EngineStepHasThreeOutcomes := by
  intro s hinv hrun
  obtain ⟨r, hr, hfits⟩ := hinv.exists_stepOp hrun
  have hstep := engineStep_run hrun hr
  refine ⟨r, hr, ?_⟩
  cases r with
  | cont wk => exact hstep
  | complete v => exact ⟨hfits, hstep⟩
  | fault c => exact ⟨hfits.1, hfits.2, hstep⟩

/-! The operations of the block, one by one -/

/-- While a command runs no flag and no code is set (R31 a, c). -/
theorem State.Inv.flags_of_run {s : State} (h : s.Inv) (hrun : s.phase = .run) :
    s.done = false ∧ s.err = false ∧ s.errcode = 0 := by
  obtain ⟨hdone, herr⟩ := h.running hrun
  refine ⟨hdone, herr, ?_⟩
  by_contra hcode
  simpa [herr] using h.coded.1 hcode

/-- The host's lines, its answers and the turns are no part of the block (R7). -/
theorem State.Inv.after_environment {s : State} (h : s.Inv) (host : List HostLine) (answers : List Answer)
    (turns : List Turn) : State.Inv { s with host := host, answers := answers, turns := turns } where
  legal := h.legal
  bounded := h.bounded
  running := h.running
  exclusive := h.exclusive
  coded := h.coded
  codeRange := h.codeRange
  quiet := h.quiet
  shaped := h.shaped
  held hrst := congrArg (fun b : State => { b with host := host, answers := answers, turns := turns }) (h.held hrst)

theorem State.Inv.after_respond {s : State} (h : s.Inv) (a : Answer) : (s.respond a).Inv :=
  h.after_environment s.host (a :: s.answers) s.turns

theorem State.Inv.after_popTurn {s : State} (h : s.Inv) : s.popTurn.Inv :=
  h.after_environment s.host s.answers s.turns.tail

theorem State.Inv.after_nextLine {s : State} (h : s.Inv) : s.nextLine.Inv := by
  rw [s.nextLine_eq]; exact h.after_environment s.nextLine.host s.answers s.turns

/-- The block held in reset satisfies the invariant, whatever it held before (R50, R240). -/
theorem State.resetBlock_inv {s : State} (hlegal : s.params.Legal) : s.resetBlock.Inv where
  legal := hlegal
  bounded i := by rw [State.readX_resetBlock]; exact Nat.two_pow_pos _
  running := nofun
  exclusive := nofun
  coded := by simp
  codeRange := by simp
  quiet _ := ⟨rfl, rfl⟩
  shaped := nofun
  held _ := State.resetBlock_resetBlock s

/-- A register write of a `W`-bit value keeps every register a `W`-bit value (R21). -/
theorem State.writeX_bounded {s : State} {b v : Nat} (h : ∀ i : RegSel, s.readX i < b) (hv : v < b) (r i : RegSel) :
    (s.writeX r v).readX i < b := by
  rw [State.readX_writeX]; split
  · exact hv
  · exact h i

section OutOfReset

/-! What the host and the engine do while `rst_n` is 1. -/

variable {s : State} (h : s.Inv) (hrst : s.rstN = true)
include h hrst

theorem State.Inv.after_setEnables (v : Word) : (s.setEnables v).Inv :=
  { h with held := by simp [hrst] }

theorem State.Inv.after_toIdle : s.toIdle.Inv :=
  { h with
    running := nofun
    quiet := fun _ => ⟨rfl, rfl⟩
    shaped := nofun
    held := by simp [hrst] }

theorem State.Inv.after_writeCtrl (v : Word) : (s.writeCtrl v).Inv := by
  rcases s.writeCtrl_cases v with e | ⟨-, -, e⟩ <;> rw [e]
  · exact h.after_setEnables hrst v
  · exact (h.after_setEnables hrst v).after_toIdle hrst

theorem State.Inv.after_writeStatus (v : Word) : (s.writeStatus v).Inv := by
  rw [State.writeStatus_eq]
  generalize v.getLsbD 1 = clearsDone
  generalize v.getLsbD 2 = clearsErr
  exact { h with
    running := fun hrun => by simp [h.running hrun]
    exclusive := by have := h.exclusive; cases clearsDone <;> cases clearsErr <;> simp_all
    coded := by cases clearsErr; exacts [h.coded, by simp]
    codeRange := by cases clearsErr; exacts [h.codeRange, by simp]
    held := by simp [hrst] }

theorem State.Inv.after_accept {op : Opcode} {wk : Work} (hwk : wk.Fits s.params.W op) (rd : RegSel) :
    (s.accept op rd wk).Inv :=
  { h with
    running := fun _ => ⟨rfl, rfl⟩
    exclusive := nofun
    coded := by simp
    codeRange := by simp
    quiet := nofun
    shaped := fun _ => hwk
    held := by simp [hrst] }

theorem State.Inv.after_illegalCommand (hidle : s.phase = .idle) : s.illegalCommand.Inv :=
  { h with
    running := by simp [hidle]
    exclusive := nofun
    coded := by simp
    codeRange := by simp
    held := by simp [hrst] }

theorem State.Inv.after_writeLimb (r : RegSel) {j : Nat} (hj : j < s.params.L) (d : Word) : (s.writeLimb r j d).Inv := by
  have hlt : setlimb (s.readX r) j d < 2 ^ s.params.W := by
    obtain ⟨hW, -⟩ := Legal.limbs h.legal
    have hr := h.bounded r
    rw [hW] at hr ⊢
    exact setlimb_lt d hj hr
  exact { h with
    bounded := State.writeX_bounded h.bounded hlt r
    held := by simp [State.writeLimb, hrst] }

/-- A transaction out of reset keeps the invariant (R60). -/
theorem State.Inv.after_transact {t : State} {x : Txn} (hx : transact s x = .next t) : t.Inv := by
  cases x with
  | read addr n => cases hx; exact h.after_respond _
  | write addr n v =>
    change memWrite s addr n v = .next t at hx
    rcases memWrite_cases s addr n v with
        e | ⟨-, e⟩ | ⟨-, e⟩ | ⟨-, -, i, -, e⟩ | ⟨-, hidle, _, -, e⟩ | ⟨-, -, hj, -, e⟩ <;>
      rw [e] at hx <;> cases hx
    · exact h.after_respond _
    · exact (h.after_writeCtrl hrst v).after_respond _
    · exact (h.after_writeStatus hrst v).after_respond _
    · exact (h.after_accept hrst (initOp_fits i h) i.rd).after_respond _
    · exact (h.after_illegalCommand hrst hidle).after_respond _
    · exact (h.after_writeLimb hrst _ hj v).after_respond _

/-- Each outcome of an engine step keeps the invariant (R43 to R45). -/
theorem State.Inv.after_apply (hrun : s.phase = .run) {r : StepResult} (hr : r.Fits s.params.W s.cur.op) :
    (s.apply r).Inv := by
  obtain ⟨hdone, herr, hcode⟩ := h.flags_of_run hrun
  cases r with
  | cont wk =>
    exact { h with
      quiet := by simp [hrun]
      shaped := fun _ => hr
      held := by simp [hrst] }
  | complete v =>
    exact { h with
      bounded := State.writeX_bounded h.bounded hr s.cur.rd
      running := nofun
      exclusive := by simp [herr]
      quiet := fun _ => ⟨rfl, rfl⟩
      shaped := nofun
      held := by simp [hrst] }
  | fault c =>
    exact { h with
      running := nofun
      exclusive := by simp [hdone]
      coded := by cases c <;> simp [FaultCode.code]
      codeRange := hr.2
      quiet := fun _ => ⟨rfl, rfl⟩
      shaped := nofun
      held := by simp [hrst] }

theorem State.Inv.after_engineStep {t : State} (ht : engineStep s = .next t) : t.Inv := by
  rcases engineStep_cases ht with ⟨-, rfl⟩ | ⟨hrun, r, hr, rfl⟩
  · exact h
  · obtain ⟨r', hr', hfits⟩ := h.exists_stepOp hrun
    cases hr.symm.trans hr'
    exact h.after_apply hrst hrun hfits

end OutOfReset

/-! The agents and the whole machine -/

theorem State.Inv.after_hostMove {s t : State} (h : s.Inv) (ht : hostMove s = .next t) : t.Inv := by
  rcases hostMove_cases ht with ⟨-, rfl⟩ | ⟨-, -, rfl⟩ | ⟨hrst, x, -, hx⟩
  · exact State.resetBlock_inv h.legal
  · exact h
  · exact h.after_nextLine.after_transact (by simpa using hrst) hx

theorem State.Inv.after_engineMove {s t : State} (h : s.Inv) (ht : engineMove s = .next t) : t.Inv := by
  rcases engineMove_cases ht with ⟨-, rfl⟩ | ⟨hrst, hstep⟩
  · exact State.resetBlock_inv h.legal
  · exact h.after_engineStep hrst hstep

/-- Both edges of `rst_n` put the block at its values of R50 (R240). -/
theorem State.Inv.after_resetAssert {s : State} (h : s.Inv) : (resetAssert s).Inv :=
  State.resetBlock_inv (s := { s with rstN := false }) h.legal

theorem State.Inv.after_resetRelease {s : State} (h : s.Inv) : (resetRelease s).Inv := by
  unfold resetRelease; split
  · exact State.resetBlock_inv (s := { s with rstN := true }) h.legal
  · exact h

/-- Settles O50: the state after reset is a block held at the values of R50. -/
theorem invariantAtReset : Obligations.InvariantAtReset :=
  fun p h ts hlegal => State.resetBlock_inv (s := { State.resetAt p with host := h, turns := ts }) hlegal

/-- Settles O51, agent by agent: the host, the engine, the two edges of the reset input. -/
theorem everyStepKeepsTheInvariant : Obligations.EveryStepKeepsTheInvariant := by
  intro s t hinv ht
  rcases step_cases ht with ⟨-, hhost⟩ | ⟨-, hengine⟩ | ⟨-, rfl⟩ | ⟨-, rfl⟩
  · exact hinv.after_popTurn.after_hostMove hhost
  · exact hinv.after_popTurn.after_engineMove hengine
  · exact hinv.after_popTurn.after_resetAssert
  · exact hinv.after_popTurn.after_resetRelease

/-- From the invariant no move is stopped: the engine's step is defined wherever it is taken (R42). -/
theorem State.Inv.engineMove_next {s : State} (h : s.Inv) : ∃ t, engineMove s = .next t := by
  unfold engineMove
  split
  · exact ⟨_, rfl⟩
  · cases hp : s.phase with
    | idle => exact ⟨_, engineStep_idle hp⟩
    | run =>
      obtain ⟨r, hr, -⟩ := h.exists_stepOp hp
      exact ⟨_, engineStep_run hp hr⟩

theorem State.Inv.step_next {s : State} (h : s.Inv) : ∃ t, step s = .next t := by
  unfold step move
  cases s.nextTurn with
  | host => exact hostMove_next _
  | engine => exact h.after_popTurn.engineMove_next
  | rstLow => exact ⟨_, rfl⟩
  | rstHigh => exact ⟨_, rfl⟩

/-- A run of one step more is the step and the run from there. -/
theorem run_succ {s t : State} (k : Nat) (h : step s = .next t) :
    Host.Core.run core (k + 1) s = Host.Core.run core k t := by
  have hcore : core.step s = .next t := h
  simp only [Host.Core.run, hcore]

/-- From the invariant a run of any length goes through to a state of the invariant. -/
theorem State.Inv.run {s : State} (h : s.Inv) (k : Nat) : ∃ t, Host.Core.run core k s = .next t ∧ t.Inv := by
  induction k generalizing s with
  | zero => exact ⟨s, rfl, h⟩
  | succ k ih =>
    obtain ⟨s1, hs1⟩ := h.step_next
    rw [run_succ k hs1]
    exact ih (everyStepKeepsTheInvariant s s1 h hs1)

/-- Settles O53: every step from the invariant has a next state, which is in the invariant again. -/
theorem noRunIsEverStopped : Obligations.NoRunIsEverStopped := by
  intro k s hinv
  obtain ⟨t, ht, -⟩ := hinv.run k
  exact ⟨t, ht⟩

/-- Settles O52: the state reached is in the invariant. -/
theorem statusInvariants : Obligations.StatusInvariants := by
  intro k s t hinv ht
  obtain ⟨t', ht', hinv'⟩ := hinv.run k
  cases ht.symm.trans ht'
  exact ⟨hinv'.running, hinv'.exclusive, hinv'.coded, fun hidle => (hinv'.quiet hidle).2⟩

end Sys2Proof.Machine

namespace Sys2Proof.Machine

/-! ## One engine step -/

/-- What an engine step leaves alone (R42, R43). -/
theorem engineStep_frame {s t : State} (h : engineStep s = .next t) :
    t.params = s.params ∧ t.ieDone = s.ieDone ∧ t.ieErr = s.ieErr ∧ t.rstN = s.rstN ∧ t.host = s.host ∧
      t.answers = s.answers ∧ t.turns = s.turns := by
  rcases engineStep_cases h with ⟨-, rfl⟩ | ⟨-, r, -, rfl⟩
  · exact ⟨rfl, rfl, rfl, rfl, rfl, rfl, rfl⟩
  · exact s.apply_frame r

/-- An engine step changes a register by completing only, and the destination only (R22 b, R44). -/
theorem engineStep_readX {s t : State} (h : engineStep s = .next t) (i : RegSel) :
    t.readX i = s.readX i ∨ (s.phase = .run ∧ i = s.cur.rd ∧ t.done = true ∧ t.phase = .idle) := by
  rcases engineStep_cases h with ⟨-, rfl⟩ | ⟨hrun, r, -, rfl⟩
  · exact .inl rfl
  · rcases s.apply_readX r i with hkept | ⟨v, rfl, hi, -⟩
    · exact .inl hkept
    · exact .inr ⟨hrun, hi, rfl, rfl⟩

/-- Settles O15: an idle engine does nothing, and a running one writes the destination on completion at most. -/
theorem engineStepFrame : Obligations.EngineStepFrame := by
  intro s t h
  refine ⟨fun hidle => ?_, fun r hr => ?_, fun hne => ?_, engineStep_frame h⟩
  · cases (engineStep_idle hidle).symm.trans h; rfl
  · rcases engineStep_readX h r with hkept | ⟨-, hrd, -⟩
    · exact hkept
    · exact absurd hrd hr
  · rcases engineStep_readX h s.cur.rd with hkept | ⟨-, -, hend⟩
    · exact absurd hkept hne
    · exact hend

/-- Settles O13: completing is `State.complete`, and a running command has no flag set. -/
theorem completeWritesTheDestination : Obligations.CompleteWritesTheDestination := by
  intro s v hinv hrun hstep
  obtain ⟨-, herr, hcode⟩ := hinv.flags_of_run hrun
  refine ⟨_, engineStep_run hrun hstep, rfl, herr, hcode, ?_⟩
  simp [memRead, LegalAccess, State.statusWord, State.busy, bit, herr, hcode]

/-- Settles O14: faulting is `State.raiseFault`, and a running command has no flag set. -/
theorem faultWritesNoRegister : Obligations.FaultWritesNoRegister := by
  intro s c hinv hrun hstep
  obtain ⟨hdone, -, -⟩ := hinv.flags_of_run hrun
  refine ⟨_, engineStep_run hrun hstep, rfl, hdone, ?_⟩
  simp [memRead, LegalAccess, State.statusWord, State.busy, bit, hdone]

/-! ## Interleaving

The engine looks at its own part of the state only, and a host that does not abort leaves that part alone while a command runs (R48, R68). -/

/-- The engine's own part of a state: the enables, the reset input and the host put away. -/
def State.alone (s : State) : State :=
  { s with ieDone := false, ieErr := false, rstN := true, host := [], answers := [], turns := [] }

/-- Two states with the same engine part have the same engine fields. -/
theorem State.alone_congr {s t : State} (h : t.alone = s.alone) :
    t.x = s.x ∧ t.done = s.done ∧ t.err = s.err ∧ t.errcode = s.errcode ∧ t.phase = s.phase ∧ t.cur = s.cur ∧
      t.wk = s.wk := by
  simp only [State.alone, State.mk.injEq] at h
  obtain ⟨-, hx, -, -, hdone, herr, hcode, hphase, hcur, hwk, -⟩ := h
  exact ⟨hx, hdone, herr, hcode, hphase, hcur, hwk⟩

theorem State.alone_apply (s : State) (r : StepResult) : (s.apply r).alone = s.alone.apply r := by
  cases r <;> rfl

/-- The engine's step on its own part of the state is its step on the whole. -/
theorem engineStep_alone {s t : State} (h : engineStep s = .next t) : engineStep s.alone = .next t.alone := by
  rcases engineStep_cases h with ⟨hidle, rfl⟩ | ⟨hrun, r, hr, rfl⟩
  · exact engineStep_idle hidle
  · rw [State.alone_apply]; exact engineStep_run hrun hr

/-- Engine steps that reach a state begin with one step. -/
theorem engineSteps_succ_iff {k : Nat} {s u : State} :
    engineSteps (k + 1) s = .next u ↔ ∃ t, engineStep s = .next t ∧ engineSteps k t = .next u := by
  cases h : engineStep s <;> simp [engineSteps, h]

theorem engineSteps_alone {k : Nat} {s t : State} (h : engineSteps k s = .next t) :
    engineSteps k s.alone = .next t.alone := by
  induction k generalizing s with
  | zero => cases h; rfl
  | succ k ih =>
    obtain ⟨s1, hs1, hrest⟩ := engineSteps_succ_iff.1 h
    exact engineSteps_succ_iff.2 ⟨s1.alone, engineStep_alone hs1, ih hrest⟩

theorem EndsAfter.alone {T : Nat} {s u : State} (h : EndsAfter T s u) : EndsAfter T s.alone u.alone := by
  obtain ⟨hend, hidle, hbefore⟩ := h
  refine ⟨engineSteps_alone hend, hidle, fun k hk => ?_⟩
  obtain ⟨v, hv, hrun⟩ := hbefore k hk
  exact ⟨v.alone, engineSteps_alone hv, hrun⟩

/-- After one step of a running command what is left of its run is one step shorter. -/
theorem EndsAfter.tail {T : Nat} {s t u : State} (h : EndsAfter T s u) (hrun : s.phase = .run)
    (ht : engineStep s = .next t) : ∃ T', T = T' + 1 ∧ EndsAfter T' t u := by
  obtain ⟨hend, hidle, hbefore⟩ := h
  cases T with
  | zero => cases hend; simp [hrun] at hidle
  | succ T =>
    rw [engineSteps_succ T ht] at hend
    refine ⟨T, rfl, hend, hidle, fun k hk => ?_⟩
    obtain ⟨v, hv, hrun'⟩ := hbefore (k + 1) (by omega)
    exact ⟨v, engineSteps_succ k ht ▸ hv, hrun'⟩

/-- A command that has a step left to go is running. -/
theorem EndsAfter.running {T : Nat} {s u : State} (h : EndsAfter T s u) (hT : 0 < T) : s.phase = .run := by
  obtain ⟨v, hv, hrun⟩ := h.2.2 0 hT
  cases hv; exact hrun

/-- While a command runs, a transaction that does not abort leaves the engine's part alone (R68, R192). -/
theorem transact_alone {s t : State} {x : Txn} (hinv : s.Inv) (hrun : s.phase = .run)
    (hx : (HostLine.bus x).aborts = false) (ht : transact s x = .next t) : t.alone = s.alone := by
  cases x with
  | read addr n => cases ht; rfl
  | write addr n v =>
    change memWrite s addr n v = .next t at ht
    rcases memWrite_cases s addr n v with
        e | ⟨haddr, e⟩ | ⟨-, e⟩ | ⟨-, hidle, -⟩ | ⟨-, hidle, -⟩ | ⟨-, -, -, hidle, -⟩
    · cases e.symm.trans ht; rfl
    · cases e.symm.trans ht
      rcases s.writeCtrl_cases v with e' | ⟨hv, -, -⟩
      · rw [e']; rfl
      · have hbit : v.getLsbD 4 = false := by simpa [HostLine.aborts, haddr] using hx
        cases hbit.symm.trans hv
    · cases e.symm.trans ht
      obtain ⟨hdone, herr, hcode⟩ := hinv.flags_of_run hrun
      simp [State.writeStatus_eq, State.alone, State.respond, hdone, herr, hcode]
    all_goals simp [hrun] at hidle

/-- A command runs out of reset, and nothing the host still has to present aborts it. -/
structure State.Undisturbed (s : State) : Prop where
  inv : s.Inv
  running : s.phase = .run
  outOfReset : s.rstN = true
  noAbort : ∀ l ∈ s.host, l.aborts = false

/-- What the host presents from lines that do not abort does not abort (R109). -/
theorem presented_noAbort {s : State} {x : Txn} (h : ∀ l ∈ s.host, l.aborts = false) (hx : s.presented = some x) :
    (HostLine.bus x).aborts = false := by
  rcases s.presented_cases with ⟨-, e⟩ | ⟨y, rest, hline, e, -⟩ | ⟨rest, -, e, -⟩ | ⟨rest, hline, -, -⟩
  · simp [hx] at e
  · cases hx.symm.trans e; exact h _ (by simp [hline])
  · cases hx.symm.trans e; rfl
  · exact absurd (h .abortWrite (by simp [hline])) nofun

/-- Moving on past a line presents no new one. -/
theorem mem_host_of_mem_nextLine {s : State} {l : HostLine} (h : l ∈ s.nextLine.host) : l ∈ s.host := by
  unfold State.nextLine at h
  split at h
  · exact h
  · exact List.mem_of_mem_tail h

/-- A host's turn leaves an undisturbed command undisturbed and the engine's part alone (R68). -/
theorem State.Undisturbed.after_hostMove {s t : State} (h : s.Undisturbed) (ht : hostMove s = .next t) :
    t.Undisturbed ∧ t.alone = s.alone ∧ t.turns = s.turns := by
  obtain ⟨hinv, hrun, hrst, habort⟩ := h
  rcases hostMove_cases ht with ⟨hlow, -⟩ | ⟨-, -, rfl⟩ | ⟨-, x, hx, htx⟩
  · simp [hrst] at hlow
  · exact ⟨⟨hinv, hrun, hrst, habort⟩, rfl, rfl⟩
  · have hrun' : s.nextLine.phase = .run := by simpa using hrun
    have hsame : t.alone = s.alone :=
      (transact_alone hinv.after_nextLine hrun' (presented_noAbort habort hx) htx).trans (by rw [s.nextLine_eq]; rfl)
    obtain ⟨-, -, -, -, hphase, -⟩ := State.alone_congr hsame
    obtain ⟨-, -, hrst', hhost, hturns⟩ := transact_frame htx
    have hkept : ∀ l ∈ t.host, l.aborts = false := fun l hl => habort l (mem_host_of_mem_nextLine (hhost ▸ hl))
    exact ⟨⟨hinv.after_hostMove ht, hphase.trans hrun, by simp [hrst', hrst], hkept⟩, hsame, by simp [hturns]⟩

/-- An engine's turn leaves a command undisturbed that it does not end. -/
theorem State.Undisturbed.after_engineStep {s t : State} (h : s.Undisturbed) (ht : engineStep s = .next t)
    (hrun : t.phase = .run) : t.Undisturbed := by
  obtain ⟨-, -, -, hrst, hhost, -⟩ := engineStep_frame ht
  exact ⟨h.inv.after_engineStep h.outOfReset ht, hrun, hrst.trans h.outOfReset, hhost ▸ h.noAbort⟩

/-- With a turn left, a step is the move of that turn. -/
theorem step_of_turns {s : State} {a : Turn} {ts : List Turn} (h : s.turns = a :: ts) : step s = move a s.popTurn := by
  simp [step, State.nextTurn, h]

/-- The interleaved run and the engine's own go side by side: while the turns `ts` hold fewer of the engine's than the command needs, or end with the last it needs, the engine's part is what as many engine steps alone give (R48, R51). -/
theorem run_alone {ts rest : List Turn} {T : Nat} {s t u : State} (h : s.Undisturbed) (hs : s.turns = ts ++ rest)
    (hts : ∀ a ∈ ts, a = .host ∨ a = .engine) (hends : EndsAfter T s.alone u)
    (ht : Host.Core.run core ts.length s = .next t)
    (hk : ts.count .engine < T ∨ (ts.count .engine = T ∧ ts.getLast? = some .engine)) :
    engineSteps (ts.count .engine) s.alone = .next t.alone := by
  induction ts generalizing s T with
  | nil => cases ht; rfl
  | cons a ts ih =>
    have hpop : s.popTurn.Undisturbed := ⟨h.inv.after_popTurn, h.running, h.outOfReset, h.noAbort⟩
    have hpopturns : s.popTurn.turns = ts ++ rest := by simp [hs]
    obtain ⟨s1, hs1⟩ := h.inv.step_next
    rw [List.length_cons, run_succ ts.length hs1] at ht
    rw [step_of_turns hs] at hs1
    obtain ⟨ha, hrest⟩ := List.forall_mem_cons.1 hts
    rcases ha with rfl | rfl
    · obtain ⟨h1, hsame, hturns⟩ := hpop.after_hostMove hs1
      have hsame : s1.alone = s.alone := hsame
      rw [List.count_cons_of_ne (by decide)] at hk ⊢
      rw [← hsame] at hends ⊢
      refine ih h1 (hturns.trans hpopturns) hrest hends ht (hk.imp_right fun ⟨hT, hlast⟩ => ⟨hT, ?_⟩)
      cases ts with
      | nil => simp at hlast
      | cons b ts => exact hlast
    · rcases engineMove_cases hs1 with ⟨hlow, -⟩ | ⟨-, hstep⟩
      · cases hlow.symm.trans hpop.outOfReset
      have halone : engineStep s.alone = .next s1.alone := engineStep_alone (s := s.popTurn) hstep
      obtain ⟨T, rfl, hends'⟩ := hends.tail h.running halone
      rw [List.count_cons_self] at hk ⊢
      rw [engineSteps_succ _ halone]
      cases ts with
      | nil => cases ht; rfl
      | cons b ts =>
        have hk : (b :: ts).count .engine < T ∨
            ((b :: ts).count .engine = T ∧ (b :: ts).getLast? = some .engine) :=
          hk.imp Nat.lt_of_succ_lt_succ fun ⟨hT, hlast⟩ => ⟨Nat.succ_inj.1 hT, hlast⟩
        have hT : 0 < T := by
          rcases hk with hlt | ⟨rfl, hlast⟩
          · omega
          · exact List.count_pos_iff.2 (List.mem_of_getLast? hlast)
        obtain ⟨-, -, -, -, -, -, hturns⟩ := engineStep_frame hstep
        exact ih (hpop.after_engineStep hstep (hends'.running hT)) (hturns.trans hpopturns) hrest hends' ht hk

/-- While the command still runs after `k` engine steps, registers and command are as they were (R42, R43). -/
theorem engineSteps_running {k : Nat} {s v : State} (h : engineSteps k s = .next v) (hrun : v.phase = .run) :
    s.phase = .run ∧ v.x = s.x ∧ v.cur = s.cur := by
  induction k generalizing s with
  | zero => cases h; exact ⟨hrun, rfl, rfl⟩
  | succ k ih =>
    obtain ⟨s1, hs1, hrest⟩ := engineSteps_succ_iff.1 h
    obtain ⟨hrun1, hx, hcur⟩ := ih hrest
    rcases engineStep_cases hs1 with ⟨-, rfl⟩ | ⟨hrun0, r, -, rfl⟩
    · exact ⟨hrun1, hx, hcur⟩
    · cases r with
      | cont wk => exact ⟨hrun0, hx, hcur⟩
      | complete v => cases hrun1
      | fault c => cases hrun1

/-- Settles O29: on the engine's part the interleaved run is the run of the engine alone. -/
theorem interleavingCannotChangeTheResult : Obligations.InterleavingCannotChangeTheResult := by
  intro n T s t u hinv hrun hrst habort hn hturns hends ht
  have hlen : (s.turns.take n).length = n := by simpa using hn
  have hside := run_alone (t := t) ⟨hinv, hrun, hrst, habort⟩ (List.take_append_drop n s.turns).symm hturns
    hends.alone (by rwa [hlen])
  refine ⟨fun hk => ?_, fun hk hlast => ?_⟩
  · obtain ⟨v, hv, hvrun⟩ := hends.2.2 _ hk
    have hsame := Host.Outcome.next.inj ((hside (.inl hk)).symm.trans (engineSteps_alone hv))
    obtain ⟨hx, -, -, -, hphase, hcur, hwk⟩ := State.alone_congr hsame
    obtain ⟨-, hvx, hvcur⟩ := engineSteps_running hv hvrun
    exact ⟨hphase.trans hvrun, hx.trans hvx, hcur.trans hvcur, v, hv, hwk⟩
  · have hsame := Host.Outcome.next.inj ((hside (.inr ⟨hk, hlast⟩)).symm.trans (hk ▸ hends.alone.1))
    obtain ⟨hx, hdone, herr, hcode, hphase, -⟩ := State.alone_congr hsame
    exact ⟨hphase.trans hends.2.1, hx, hdone, herr, hcode⟩

end Sys2Proof.Machine

namespace Sys2Proof.Machine

/-! ## The length of the Euclidean iteration -/

/-- Two iterations at least halve the second number (R46). -/
theorem two_mul_mod_lt {b r : Nat} (hr : 0 < r) (hrb : r < b) : 2 * (b % r) < b := by
  have hdiv : 1 ≤ b / r := (Nat.one_le_div_iff hr).2 hrb.le
  have hmod := Nat.mod_lt b hr
  have hsplit := Nat.div_add_mod b r
  have hle : r ≤ r * (b / r) := Nat.le_mul_of_pos_right r hdiv
  omega

/-- Two iterations shorten the second number by a bit, so there are at most twice as many as it has bits. -/
theorem euclidIters_le_bitlen_right (a b : Nat) : euclidIters a b ≤ 2 * bitlen b := by
  induction b using Nat.strong_induction_on generalizing a with
  | _ b ih =>
    by_cases hb : b = 0
    · simp [hb]
    have hlen := bitlen_half hb
    rw [euclidIters_step hb]
    by_cases hr : a % b = 0
    · rw [hr, euclidIters_zero]; omega
    have hlt : a % b < b := Nat.mod_lt a (by omega)
    have hhalf := two_mul_mod_lt (by omega) hlt
    have hshort : bitlen (b % (a % b)) ≤ bitlen (b / 2) :=
      (bitlen_le_iff _ _).2 (lt_of_le_of_lt (by omega) ((bitlen_le_iff (b / 2) _).1 le_rfl))
    rw [euclidIters_step hr]
    have := ih (b % (a % b)) (by omega) (a % b)
    omega

/-- Settles O17: with the smaller number second the bound is two per bit, and one iteration brings it there. -/
theorem euclidIterationBound : Obligations.EuclidIterationBound := by
  intro a b
  rcases Nat.lt_or_ge a b with hlt | hge
  · rw [min_eq_left hlt.le, euclidIters_step (by omega), Nat.mod_eq_of_lt hlt]
    have := euclidIters_le_bitlen_right b a
    omega
  · rw [min_eq_right hge]
    have := euclidIters_le_bitlen_right a b
    omega

/-! ## The `CMD` write -/

/-- Settles O11: refused or accepted, the command only reaches the engine's own fields. -/
theorem commandWriteFrame : Obligations.CommandWriteFrame := by
  intro i s t ht
  rcases exec_cases i s with ⟨-, e⟩ | ⟨-, e⟩ <;> cases e.symm.trans ht <;>
    exact ⟨rfl, fun _ => rfl, rfl, rfl, rfl, rfl, rfl, _, rfl⟩

/-- The write to the address of `CMD` is `writeCmd` (R66). -/
theorem memWrite_cmd (s : State) (w : Word) : memWrite s 0x0010 4 w = writeCmd s w := rfl

/-- While idle, writing the word of a command is `exec` of it (R40). -/
theorem memWrite_cmd_ok {s : State} {w : Word} {i : Instr} (hidle : s.phase = .idle) (hw : decode w = .ok i) :
    memWrite s 0x0010 4 w = exec i s := by
  simp [memWrite_cmd, writeCmd, hidle, hw]

/-- While idle, writing any other word records `ILLEGAL_CMD` (R41). -/
theorem memWrite_cmd_illegal {s : State} {w : Word} (hidle : s.phase = .idle) (hw : ¬ ∃ i, decode w = .ok i) :
    memWrite s 0x0010 4 w = .next (s.illegalCommand.respond .okWrite) := by
  rcases writeCmd_cases s w with ⟨hrun, -⟩ | ⟨-, i, hi, -⟩ | ⟨-, e, -, h⟩
  · simp [hidle] at hrun
  · exact absurd ⟨i, hi⟩ hw
  · exact h

/-- Settles O7: the write is `exec`, which accepts while idle. -/
theorem acceptLatchesAndStarts : Obligations.AcceptLatchesAndStarts := by
  intro s w i hidle hw
  rw [memWrite_cmd_ok hidle hw, exec_idle i hidle]; rfl

/-- Settles O8: the write records the fault. -/
theorem illegalWordIsRecorded : Obligations.IllegalWordIsRecorded :=
  fun _ _ hidle hw => memWrite_cmd_illegal hidle hw

/-- A host's turn out of reset at a line with a fixed transaction carries it out (R70, R108). -/
theorem step_bus {s : State} {x : Txn} {rest : List HostLine} (hturn : s.nextTurn = .host) (hrst : s.rstN = true)
    (hhost : s.host = .bus x :: rest) : step s = transact { s with host := rest, turns := s.turns.tail } x := by
  have hmove : step s = hostMove s.popTurn := by simp [step, move, hturn]
  rw [hmove]
  simp [hostMove, hrst, State.presented, State.nextLine, State.keepsLine, hhost, State.popLine, State.popTurn]

/-- Settles O10: the step is the `CMD` write of the line, and of the placed word in the block made ready. -/
theorem stepRunsTheDecodedCommand : Obligations.StepRunsTheDecodedCommand := by
  constructor
  · intro s w i rest hturn hrst hidle hhost hw
    rw [step_bus hturn hrst hhost]
    exact memWrite_cmd_ok hidle hw
  · intro s nbits w i hw
    have hdecode : decode (BitVec.ofNat 32 (w % 2 ^ nbits)) = .ok i := by
      unfold decodeTableWord at hw
      split at hw
      · split at hw
        · cases hw; assumption
        · cases hw
      · cases hw
    rw [step_withFetchWord, memWrite_cmd_ok rfl hdecode]; rfl

/-! ## What the control registers read -/

/-- The bits of the word `STATUS` reads (R26). -/
theorem statusWord_bits (busy done err : Bool) (code : BitVec 4) :
    let st : Word := BitVec.ofNat 32 (bit busy + 2 * bit done + 4 * bit err + 256 * code.toNat)
    st[0] = busy ∧ st[1] = done ∧ st[2] = err ∧
      st.extractLsb 7 3 = 0 ∧ st.extractLsb 11 8 = code ∧ st.extractLsb 31 12 = 0 := by
  revert busy done err code; decide

/-- The bits of the word `CTRL` reads (R25). -/
theorem ctrlWord_bits (ieDone ieErr : Bool) :
    let ct : Word := BitVec.ofNat 32 (bit ieDone + 2 * bit ieErr)
    ct[0] = ieDone ∧ ct[1] = ieErr ∧ ct.extractLsb 31 2 = 0 := by
  revert ieDone ieErr; decide

/-- Settles O38: the three registers read the words of R25 to R27, whose bits are the fields. -/
theorem controlRegistersRead : Obligations.ControlRegistersRead := by
  intro s
  obtain ⟨hieDone, hieErr, hctrl⟩ := ctrlWord_bits s.ieDone s.ieErr
  obtain ⟨hbusy, hdone, herr, hlow, hcode, hhigh⟩ := statusWord_bits s.busy s.done s.err s.errcode
  have hphase : s.busy = true ↔ s.phase = .run := decide_eq_true_iff
  exact ⟨s.ctrlWord, s.statusWord, rfl, rfl, rfl, hieDone, hieErr, hctrl, by rw [← hphase, ← hbusy]; rfl, hdone, herr,
    hlow, hcode, hhigh⟩

/-- Settles O37: the words are constants, and a write to them falls to the refusing row of R66. -/
theorem idAndParamAreConstant : Obligations.IdAndParamAreConstant := by
  rintro s v ⟨-, -, hmax⟩
  have hread : memRead s 0x0004 4 = .okRead (paramWord s.params) := rfl
  have hparam : (paramWord s.params).toNat = 0x00080000 + s.params.W := by
    simp only [paramWord, BitVec.toNat_ofNat]; omega
  refine ⟨rfl, ⟨_, hread, hparam, ?_, ?_, ?_⟩, rfl, rfl⟩
  · rw [BitVec.extractLsb_toNat, hparam, Nat.shiftRight_zero]; omega
  · rw [BitVec.extractLsb_toNat, hparam, Nat.shiftRight_eq_div_pow]; omega
  · apply BitVec.eq_of_toNat_eq
    rw [BitVec.extractLsb_toNat, hparam, Nat.shiftRight_eq_div_pow]
    change _ = 0; omega

/-! ## The interrupt output -/

/-- A command that ends sets exactly one of `DONE` and `ERR` (R31 a, R44, R45). -/
theorem State.Inv.done_eq_not_err {s t : State} (h : s.Inv) (hrun : s.phase = .run) (ht : engineStep s = .next t)
    (hend : t.phase = .idle) : t.done = !t.err := by
  obtain ⟨hdone, herr, -⟩ := h.flags_of_run hrun
  rcases engineStep_cases ht with ⟨hidle, -⟩ | ⟨-, r, -, rfl⟩
  · simp [hrun] at hidle
  · cases r with
    | cont wk => simp [hrun] at hend
    | complete v => simp [herr]
    | fault c => simp [hdone]

/-- Settles O42, event by event: acceptance, the end of a command, an illegal word, clearing both flags. -/
theorem interruptFollowsTheFlags : Obligations.InterruptFollowsTheFlags := by
  intro s hinv
  refine ⟨by simp [State.irq], fun i t hidle ht => ?_, fun t hrun ht hend => ?_, fun w t hidle hw ht => ?_,
    fun t ht => ?_⟩
  · cases (exec_idle i hidle).symm.trans ht
    simp [State.irq, State.accepted]
  · obtain ⟨-, hieDone, hieErr, -⟩ := engineStep_frame ht
    exact ⟨by rw [State.irq, hieDone, hieErr], hinv.done_eq_not_err hrun ht hend⟩
  · cases (memWrite_cmd_illegal hidle hw).symm.trans ht
    simp [State.irq]
  · have hclear : memWrite s 0x000C 4 6 = .next ((s.writeStatus 6).respond .okWrite) := rfl
    cases hclear.symm.trans ht
    simp [State.irq, State.writeStatus_eq]

/-! ## Reset -/

/-- Both edges of `rst_n`, one after the other, leave the reset state behind the host's lines and answers (R240). -/
theorem run_reset {s : State} (hturns : s.turns = [.rstLow, .rstHigh]) :
    Host.Core.run core 2 s = .next { State.resetAt s.params with host := s.host, answers := s.answers } := by
  have hlow : step s = .next (resetAssert s.popTurn) := step_of_turns hturns
  have hhigh : step (resetAssert s.popTurn) = .next (resetRelease (resetAssert s.popTurn).popTurn) :=
    step_of_turns (a := .rstHigh) (ts := []) (by simp [hturns, resetAssert])
  rw [run_succ 1 hlow, run_succ 0 hhigh]
  simp [Host.Core.run, resetAssert, resetRelease, State.resetBlock, State.resetAt, State.popTurn, hturns]

/-- While idle every limb of a register that is 0 reads 0 (R50). -/
theorem memRead_xaddr_of_zero {s : State} {i : RegSel} {j : Nat} (hidle : s.phase = .idle) (hx : s.readX i = 0)
    (hj : j < s.params.L) (h256 : j < 256) : memRead s (xaddr i j) 4 = .okRead 0 := by
  rw [memRead_xaddr i hidle hj h256, hx]
  simp [limb, bitField]

/-- Settles O48: the state after both edges is the reset state, and every register reads its value there. -/
theorem resetValues : Obligations.ResetValues := by
  intro s hlegal hturns
  have hx : ∀ r : RegSel, (State.resetAt s.params).readX r = 0 := (State.resetAt s.params).readX_resetBlock
  refine ⟨_, run_reset hturns, hx, rfl, rfl, rfl, rfl, rfl, rfl, rfl, rfl, rfl, rfl, rfl, rfl, rfl, rfl,
    fun i j hj => ?_, rfl⟩
  obtain ⟨-, -, hL⟩ := Legal.limbs hlegal
  exact memRead_xaddr_of_zero (by rfl) (hx i) hj (by omega)

/-! ## What changes a register -/

/-- An aligned window address is the offset of its limb (R62). -/
theorem xaddr_windowReg_windowLimb {addr n : Nat} (hl : LegalAccess addr n) (hw : InWindow addr) :
    xaddr (windowReg addr) (windowLimb addr) = addr := by
  obtain ⟨-, halign, -⟩ := hl
  obtain ⟨hlo, hhi⟩ := hw
  simp only [xaddr, windowReg, windowLimb, bitField, Fin.ofNat]
  omega

/-- A transaction changes a register by a limb write to it while idle only (R22 a, R66, R194). -/
theorem transact_readX {s t : State} {x : Txn} (ht : transact s x = .next t) (r : RegSel) :
    t.readX r = s.readX r ∨ (s.phase = .idle ∧ ∃ j d, x = .write (xaddr r j) 4 d ∧ j < s.params.L ∧
      t.readX r = setlimb (s.readX r) j d) := by
  cases x with
  | read addr n => cases ht; exact .inl rfl
  | write addr n v =>
    change memWrite s addr n v = .next t at ht
    rcases memWrite_cases s addr n v with
        e | ⟨-, e⟩ | ⟨-, e⟩ | ⟨-, -, _, -, e⟩ | ⟨-, -, _, -, e⟩ | ⟨hl, hw, hj, hidle, e⟩ <;> cases e.symm.trans ht
    · exact .inl rfl
    · rcases s.writeCtrl_cases v with e' | ⟨-, -, e'⟩ <;> rw [e'] <;> exact .inl rfl
    · rw [State.writeStatus_eq]; exact .inl rfl
    · exact .inl rfl
    · exact .inl rfl
    · by_cases hr : windowReg addr = r
      · subst hr
        obtain rfl : n = 4 := hl.1
        exact .inr ⟨hidle, _, v, by rw [xaddr_windowReg_windowLimb hl hw], hj, s.readX_writeX_same _ _⟩
      · exact .inl (s.readX_writeX_other _ _ _ hr)

/-- A host's turn changes a register by a limb write line while idle, or by holding the block in reset. -/
theorem hostMove_readX {s t : State} (ht : hostMove s = .next t) (r : RegSel) :
    t.readX r = s.readX r ∨ (s.rstN = false ∧ t.readX r = 0) ∨
      (s.phase = .idle ∧ ∃ j d rest, s.host = .bus (.write (xaddr r j) 4 d) :: rest ∧
        j < s.params.L ∧ t.readX r = setlimb (s.readX r) j d) := by
  rcases hostMove_cases ht with ⟨hlow, rfl⟩ | ⟨-, -, rfl⟩ | ⟨-, x, hx, htx⟩
  · exact .inr (.inl ⟨hlow, s.readX_resetBlock r⟩)
  · exact .inl rfl
  have hkept : s.nextLine.readX r = s.readX r := State.readX_congr s.nextLine_x r
  rcases transact_readX htx r with h | ⟨hidle, j, d, rfl, hj, hd⟩
  · exact .inl (h.trans hkept)
  rw [State.nextLine_phase] at hidle
  rw [State.nextLine_params] at hj
  rw [hkept] at hd
  rcases s.presented_cases with ⟨-, e⟩ | ⟨y, rest, hline, e, -⟩ | ⟨rest, -, e, -⟩ | ⟨rest, -, e, -⟩
  · simp [hx] at e
  · cases hx.symm.trans e
    exact .inr (.inr ⟨hidle, j, d, rest, hline, hj, hd⟩)
  · simp [hx] at e
  · simp [hx, xaddr] at e
    omega

/-- The rising edge of `rst_n` puts a register of a block in reset to 0 and changes no other (R240). -/
theorem resetRelease_readX (s : State) (r : RegSel) :
    (resetRelease s).readX r = s.readX r ∨ (s.rstN = false ∧ (resetRelease s).readX r = 0) := by
  unfold resetRelease
  split
  next hlow => exact .inr ⟨hlow, s.readX_resetBlock r⟩
  next => exact .inl rfl

/-- Settles O55, agent by agent: the host, the engine, the two edges of the reset input. -/
theorem onlyTheseChangeARegister : Obligations.OnlyTheseChangeARegister := by
  intro s t r ht hne
  rcases step_cases ht with ⟨hturn, hhost⟩ | ⟨hturn, hengine⟩ | ⟨hturn, rfl⟩ | ⟨-, rfl⟩
  · rcases hostMove_readX hhost r with hkept | ⟨hlow, hzero⟩ | ⟨hidle, hlimb⟩
    · exact absurd hkept hne
    · exact .inr (.inr ⟨.inr hlow, hzero⟩)
    · exact .inr (.inl ⟨hturn, hidle, hlimb⟩)
  · rcases engineMove_cases hengine with ⟨hlow, rfl⟩ | ⟨-, hstep⟩
    · exact .inr (.inr ⟨.inr hlow, s.popTurn.readX_resetBlock r⟩)
    · rcases engineStep_readX hstep r with hkept | ⟨hrun, hrd, hdone, hidle⟩
      · exact absurd hkept hne
      · exact .inl ⟨hturn, hrun, hrd, hdone, hidle⟩
  · exact .inr (.inr ⟨.inl hturn, s.popTurn.readX_resetBlock r⟩)
  · rcases resetRelease_readX s.popTurn r with hkept | ⟨hlow, hzero⟩
    · exact absurd hkept hne
    · exact .inr (.inr ⟨.inr hlow, hzero⟩)

end Sys2Proof.Machine

namespace Sys2Proof.Machine

/-! ## The limbs of a register -/

/-- `limb(v, j)` is the 32-bit word at `v div 2^(32*j)` (R10). -/
theorem limb_eq_ofNat (v j : Nat) : limb v j = BitVec.ofNat 32 (v / 2 ^ (32 * j)) := by
  apply BitVec.eq_of_toNat_eq
  rw [limb_toNat, BitVec.toNat_ofNat]

/-- Without limb 0 the limbs are those of the number 32 bits further down. -/
theorem limb_succ (v j : Nat) : limb v (j + 1) = limb (v / 2 ^ 32) j := by
  rw [limb_eq_ofNat, limb_eq_ofNat, Nat.div_div_eq_div_mul, ← Nat.pow_add, Nat.mul_succ, Nat.add_comm]

/-- The lowest `n` limbs add up to the lowest `32*n` bits (R63). -/
theorem sum_limbs (v n : Nat) :
    ((List.range n).map fun j => (limb v j).toNat * 2 ^ (32 * j)).sum = v % 2 ^ (32 * n) := by
  induction n with
  | zero => simp [Nat.mod_one]
  | succ n ih =>
    rw [List.range_succ, List.map_append, List.sum_append, ih, List.map_singleton, List.sum_singleton, limb_toNat,
      Nat.mul_succ, Nat.pow_add, Nat.mod_mul, Nat.mul_comm (2 ^ (32 * n))]

/-- The answers of an `STX` of `n` limbs give the lowest `32*n` bits (R109). -/
theorem stxValue_limbs (v n : Nat) :
    stxValue ((List.range n).map fun j => .okRead (limb v j)) = some (v % 2 ^ (32 * n)) := by
  induction n generalizing v with
  | zero => simp [stxValue, Nat.mod_one]
  | succ n ih =>
    have htail : (List.range n).map ((fun j => .okRead (limb v j)) ∘ Nat.succ) =
        (List.range n).map fun j => Answer.okRead (limb (v / 2 ^ 32) j) :=
      List.map_congr_left fun j _ => congrArg Answer.okRead (limb_succ v j)
    rw [List.range_succ_eq_map, List.map_cons, List.map_map, htail, stxValue, ih, Option.map_some, limb_toNat,
      Nat.mul_zero, Nat.pow_zero, Nat.div_one, Nat.mul_succ, Nat.add_comm (32 * n), Nat.pow_add, Nat.mod_mul]

/-- Settles O34: the `L` limbs of a `W`-bit value give its lowest `W` bits, which are all of it. -/
theorem registerIsTheSumOfItsLimbs : Obligations.RegisterIsTheSumOfItsLimbs := by
  intro p v hlegal hv
  obtain ⟨hW, -, -⟩ := Legal.limbs hlegal
  have hall : v % 2 ^ (32 * p.L) = v := Nat.mod_eq_of_lt (hW ▸ hv)
  exact ⟨(sum_limbs v p.L).trans hall, (stxValue_limbs v p.L).trans (congrArg some hall)⟩

/-- Bits 12:10 of the distance of a limb from `0x1000` are its register, bits 9:2 its index (R62). -/
theorem xaddr_fields (i : RegSel) {j : Nat} (hj : j < 256) :
    (BitVec.ofNat 14 (xaddr i j - 0x1000)).extractLsb 12 10 = BitVec.ofNat 3 i.val ∧
      (BitVec.ofNat 14 (xaddr i j - 0x1000)).extractLsb 9 2 = BitVec.ofNat 8 j := by
  have hdist : xaddr i j - 0x1000 = 1024 * i.val + 4 * j := by unfold xaddr; omega
  have hi := i.isLt
  rw [hdist]
  refine ⟨BitVec.eq_of_toNat_eq ?_, BitVec.eq_of_toNat_eq ?_⟩ <;>
    simp only [BitVec.extractLsb_toNat, BitVec.toNat_ofNat, Nat.shiftRight_eq_div_pow] <;> omega

/-- Settles O33: the fields of an offset, the limb read there, and the way back from an address to its fields. -/
theorem windowAddressing : Obligations.WindowAddressing := by
  constructor
  · intro s i j hlegal hj
    obtain ⟨-, -, hL⟩ := Legal.limbs hlegal
    have h256 : j < 256 := by omega
    obtain ⟨⟨-, halign, -⟩, ⟨hlo, hhi⟩, -, -⟩ := xaddr_window i h256
    obtain ⟨hreg, hlimb⟩ := xaddr_fields i h256
    exact ⟨hlo, hhi, halign, hreg, hlimb, fun hidle => by rw [memRead_xaddr i hidle hj h256, limb_eq_ofNat]⟩
  · intro addr hlo hhi halign
    exact (xaddr_windowReg_windowLimb (n := 4) ⟨rfl, halign, by omega⟩ ⟨hlo, hhi⟩).symm

/-! ## The handshake of the port -/

/-- Using up a turn changes nothing at the port. -/
theorem State.presented_popTurn (s : State) : s.popTurn.presented = s.presented :=
  State.presented_congr rfl rfl

/-- The rising edge of `rst_n` leaves the host's lines and answers alone (R240). -/
theorem resetRelease_host (s : State) :
    (resetRelease s).host = s.host ∧ (resetRelease s).answers = s.answers := by
  unfold resetRelease; split <;> exact ⟨rfl, rfl⟩

/-- The engine's turn leaves the host's lines and answers alone (R42, R240). -/
theorem engineMove_host {s t : State} (h : engineMove s = .next t) : t.host = s.host ∧ t.answers = s.answers := by
  rcases engineMove_cases h with ⟨-, rfl⟩ | ⟨-, hstep⟩
  · exact ⟨rfl, rfl⟩
  · obtain ⟨-, -, -, -, hhost, hanswers, -⟩ := engineStep_frame hstep
    exact ⟨hhost, hanswers⟩

/-- All a step can do at the port: it carries out and answers the presented transaction, in the host's turn out of reset, or it answers nothing and the host's lines stand (R60, R75). -/
theorem step_answer_cases {s t : State} (h : step s = .next t) :
    (s.nextTurn = .host ∧ s.rstN = true ∧ ∃ x a, s.presented = some x ∧ step s = transact s.popTurn.nextLine x ∧
      t.answers = a :: s.answers) ∨
    (¬(s.busReq = true ∧ s.rstN = true ∧ s.nextTurn = .host) ∧ t.host = s.host ∧ t.answers = s.answers) := by
  rcases step_cases h with ⟨hturn, hhost⟩ | ⟨hturn, hengine⟩ | ⟨hturn, rfl⟩ | ⟨hturn, rfl⟩
  · rcases hostMove_cases hhost with ⟨hlow, rfl⟩ | ⟨-, hnone, rfl⟩ | ⟨hrst, x, hx, htx⟩
    · rw [State.popTurn_rstN] at hlow
      exact .inr ⟨by simp [hlow], rfl, rfl⟩
    · rw [State.presented_popTurn] at hnone
      exact .inr ⟨by simp [State.busReq, hnone], rfl, rfl⟩
    · obtain ⟨⟨a, ha⟩, -⟩ := transact_frame htx
      exact .inl ⟨hturn, hrst, x, a, s.presented_popTurn ▸ hx, h.trans htx.symm, by simpa using ha⟩
  · exact .inr ⟨by simp [hturn], engineMove_host (s := s.popTurn) hengine⟩
  · exact .inr ⟨by simp [hturn], rfl, rfl⟩
  · exact .inr ⟨by simp [hturn], resetRelease_host s.popTurn⟩

/-- Settles O45: a step either answers the presented transaction or leaves it presented. -/
theorem portHandshake : Obligations.PortHandshake := by
  intro s t h
  rcases step_answer_cases h with ⟨hturn, hrst, x, a, hx, hstep, ha⟩ | ⟨hno, hhost, hsame⟩
  · have hreq : s.busReq = true := s.busReq_iff.2 ⟨x, hx⟩
    rw [portOutputs_of_cons ha]
    exact ⟨iff_of_true rfl ⟨hreq, hrst, hturn⟩, nofun, fun _ => ⟨x, a, hx, hstep, ha, rfl, rfl⟩,
      fun r hr => ⟨hr.req_eq, nofun⟩, rfl⟩
  · have hkept : t.presented = s.presented := State.presented_congr hhost hsame
    rw [portOutputs_of_same hsame]
    exact ⟨iff_of_false nofun hno, fun _ => ⟨hkept, congrArg Option.isSome hkept, hsame⟩, nofun,
      fun r hr => ⟨hr.req_eq, fun _ => (PortRequest.drives_congr hkept).2 hr⟩, rfl⟩

/-! ## The signals of a request -/

/-- The numbers of bytes `bus_size` can name (R75). -/
theorem exists_two_pow_size_iff (n : Nat) :
    (n = 1 ∨ n = 2 ∨ n = 4 ∨ n = 8) ↔ ∃ z : BitVec 2, 2 ^ z.toNat = n := by
  constructor
  · rintro (rfl | rfl | rfl | rfl)
    · exact ⟨0, rfl⟩
    · exact ⟨1, rfl⟩
    · exact ⟨2, rfl⟩
    · exact ⟨3, rfl⟩
  · rintro ⟨z, rfl⟩
    revert z; decide

/-- The addresses `bus_addr` can name (R75). -/
theorem exists_addr_iff (addr : Nat) : addr ≤ 0x3FFF ↔ ∃ a : BitVec 14, a.toNat = addr := by
  constructor
  · intro h
    exact ⟨BitVec.ofNat 14 addr, by rw [BitVec.toNat_ofNat]; omega⟩
  · rintro ⟨a, rfl⟩
    have := a.isLt
    omega

/-- Settles O44: address and size range over what their signals can name, and `bus_we` chooses read or write. -/
theorem portPresentsTransactions : Obligations.PortPresentsTransactions := by
  refine ⟨fun r hreq => by simp [PortRequest.presented, hreq], fun addr n v => ?_⟩
  rw [exists_addr_iff, exists_two_pow_size_iff]
  constructor <;> constructor
  · rintro ⟨⟨a, rfl⟩, ⟨z, rfl⟩⟩
    exact ⟨⟨true, false, z, a, 0⟩, rfl, rfl, rfl⟩
  · rintro ⟨⟨_, _, z, a, d⟩, rfl, rfl, hpresented⟩
    cases hpresented
    exact ⟨⟨a, rfl⟩, ⟨z, rfl⟩⟩
  · rintro ⟨⟨a, rfl⟩, ⟨z, rfl⟩⟩
    exact ⟨⟨true, true, z, a, v⟩, rfl, rfl, rfl⟩
  · rintro ⟨⟨_, _, z, a, d⟩, rfl, rfl, hpresented⟩
    cases hpresented
    exact ⟨⟨a, rfl⟩, ⟨z, rfl⟩⟩

/-- A transaction of another size than 4 bytes is refused, read or write (R64). -/
theorem transact_of_bytes_ne (s : State) {r : PortRequest} (h : r.bytes ≠ 4) :
    transact s r.txn = .next (s.respond .err) := by
  unfold PortRequest.txn
  split
  · simp [transact, memWrite, LegalAccess, h]
  · simp [transact, memRead, LegalAccess, h]

/-- `bus_size` 2 alone names 4 bytes (R75). -/
theorem PortRequest.bytes_eq_four_iff (r : PortRequest) : r.bytes = 4 ↔ r.size = 2 := by
  have h : ∀ z : BitVec 2, 2 ^ z.toNat = 4 ↔ z = 2 := by decide
  exact h r.size

/-- Settles O43: only `bus_size` 2 names 4 bytes, and another size is refused. -/
theorem portSizeMustBeFourBytes : Obligations.PortSizeMustBeFourBytes := by
  intro s r hreq hsize
  have hpresented : r.presented = some r.txn := by simp [PortRequest.presented, hreq]
  exact ⟨r.txn, hpresented, transact_of_bytes_ne s (mt r.bytes_eq_four_iff.1 hsize), rfl, rfl⟩

/-! ## Reads -/

/-- No read looks at the host's record of answers (R65). -/
@[simp] theorem memRead_respond (s : State) (a : Answer) (addr n : Nat) :
    memRead (s.respond a) addr n = memRead s addr n := rfl

/-- Settles O32: a read is its answer and nothing else. -/
theorem readsHaveNoSideEffect : Obligations.ReadsHaveNoSideEffect := by
  intro s t addr n addr' n' h
  cases h
  exact ⟨rfl, memRead_respond s _ addr' n'⟩

/-! ## The host while a command runs -/

/-- While a command runs every command is turned away (R68). -/
theorem exec_run (i : Instr) {s : State} (h : s.phase = .run) : exec i s = .next (s.respond .err) := by
  rw [exec_eq_issue, State.issue_run h]

/-- While a command runs every `CMD` write is turned away before its word is decoded (R27, R68). -/
theorem memWrite_cmd_run {s : State} (h : s.phase = .run) (w : Word) :
    memWrite s 0x0010 4 w = .next (s.respond .err) := by
  simp [memWrite_cmd, writeCmd, h]

/-- Settles O9: neither `exec` nor the `CMD` write gets past the running command. -/
theorem commandTurnedAwayWhileBusy : Obligations.CommandTurnedAwayWhileBusy :=
  fun _ hrun => ⟨fun i => exec_run i hrun, memWrite_cmd_run hrun⟩

/-- What the host presents depends on its first line only (R108, R109). -/
theorem State.presented_take_one (s : State) :
    State.presented { s with host := s.host.take 1 } = s.presented := by
  unfold State.presented
  cases h : s.host with
  | nil => rfl
  | cons l rest => cases l <;> rfl

/-- While a command runs out of reset, a host's turn whose presented transaction does not abort leaves the engine's part alone (R22, R68, R192). -/
theorem hostMove_alone {s t : State} (hinv : s.Inv) (hrun : s.phase = .run) (hrst : s.rstN = true)
    (hx : ∀ x, s.presented = some x → (HostLine.bus x).aborts = false) (ht : hostMove s = .next t) :
    t.alone = s.alone := by
  rcases hostMove_cases ht with ⟨hlow, -⟩ | ⟨-, -, rfl⟩ | ⟨-, x, hpresented, htx⟩
  · simp [hrst] at hlow
  · rfl
  · have hnext : s.nextLine.alone = s.alone := by rw [s.nextLine_eq]; rfl
    have hrun' : s.nextLine.phase = .run := by rw [State.nextLine_phase, hrun]
    exact (transact_alone hinv.after_nextLine hrun' (hx x hpresented) htx).trans hnext

/-- Settles O56: the host's line does not abort, so its turn leaves the engine's part alone. -/
theorem hostCannotDisturbARunningCommand : Obligations.HostCannotDisturbARunningCommand := by
  intro s t hinv hrun hrst hturn hline ht
  have hfirst : ∀ l ∈ s.host.take 1, l.aborts = false := by
    cases hhost : s.host with
    | nil => simp
    | cons l rest => simpa using hline l rest hhost
  have hnoAbort : ∀ x, s.popTurn.presented = some x → (HostLine.bus x).aborts = false := by
    intro x hx
    rw [State.presented_popTurn, ← State.presented_take_one] at hx
    exact presented_noAbort hfirst hx
  have hmove : hostMove s.popTurn = .next t := by simpa [step, move, hturn] using ht
  have hsame : t.alone = s.popTurn.alone := hostMove_alone hinv.after_popTurn hrun hrst hnoAbort hmove
  obtain ⟨hx, hdone, herr, hcode, hphase, hcur, hwk⟩ := State.alone_congr hsame
  exact ⟨hx, hphase.trans hrun, hcur, hwk, hdone, herr, hcode⟩

end Sys2Proof.Machine

/-! ## Command words -/

namespace Sys2Proof

open CommandWord

/-! ### Fields of a word -/

/-- A selector is its field as a number (R101). -/
theorem selector_eq_iff (w : Word) (lo : Nat) (r : RegSel) : selector w lo = r ↔ field w lo 3 = r.val := by
  have hlt : field w lo 3 < 8 := Nat.mod_lt _ (by decide)
  rw [selector, Fin.ext_iff, Fin.val_ofNat, Nat.mod_eq_of_lt hlt]

/-- The bits `hi` to `lo` of a word are the field at `lo` (R10). -/
theorem extractLsb_toNat_eq_field (w : Word) (hi lo : Nat) :
    (w.extractLsb hi lo).toNat = field w lo (hi - lo + 1) := by
  rw [BitVec.extractLsb_toNat, Nat.shiftRight_eq_div_pow, field]

/-- A bit is a field of length 1. -/
theorem getLsbD_eq_false_iff_field (w : Word) (k : Nat) : w.getLsbD k = false ↔ field w k 1 = 0 := by
  rw [BitVec.getLsbD, Nat.testBit_eq_decide_div_mod_eq, field, decide_eq_false_iff_not]
  omega

/-- The reserved bits, as the four fields `decode` tests (R103, R106). -/
theorem reservedClear_iff_fields (w : Word) :
    ReservedClear w ↔ field w 7 1 = 0 ∧ field w 11 1 = 0 ∧ field w 15 1 = 0 ∧ field w 19 13 = 0 := by
  have hhigh : w.toNat / 2 ^ 19 = field w 19 13 := (Nat.mod_eq_of_lt (by have := w.isLt; omega)).symm
  rw [ReservedClear, getLsbD_eq_false_iff_field, getLsbD_eq_false_iff_field, getLsbD_eq_false_iff_field, hhigh]

/-- The fields of a word: the reserved bits 0, the opcode, and the four selectors (R100). -/
structure HasFields (w : Word) (op : Opcode) (rd rs1 rs2 rs3 : RegSel) : Prop where
  reserved : ReservedClear w
  opcode : field w 0 4 = op.toNat
  rd : selector w 4 = rd
  rs1 : selector w 8 = rs1
  rs2 : selector w 12 = rs2
  rs3 : selector w 16 = rs3

/-- The formula of R102 loses nothing: its fields do not overlap and fit a word. -/
theorem assembleWord_toNat (op : Opcode) (rd rs1 rs2 rs3 : RegSel) :
    (assembleWord op rd rs1 rs2 rs3).toNat =
      op.toNat + 16 * rd.val + 256 * rs1.val + 4096 * rs2.val + 65536 * rs3.val := by
  have hop := op.isLt
  rw [assembleWord, BitVec.toNat_ofNat]
  omega

/-- The fields of a word determine it, by the formula of R102. -/
theorem hasFields_iff_assembleWord (w : Word) (op : Opcode) (rd rs1 rs2 rs3 : RegSel) :
    HasFields w op rd rs1 rs2 rs3 ↔ assembleWord op rd rs1 rs2 rs3 = w := by
  have hw := w.isLt
  have hop := op.isLt
  rw [← BitVec.toNat_inj, assembleWord_toNat]
  constructor
  · rintro ⟨hres, h0, h4, h8, h12, h16⟩
    obtain ⟨h7, h11, h15, h19⟩ := (reservedClear_iff_fields w).1 hres
    rw [selector_eq_iff] at h4 h8 h12 h16
    simp only [field] at h0 h4 h7 h8 h11 h12 h15 h16 h19
    omega
  · intro h
    refine ⟨(reservedClear_iff_fields w).2 ⟨?_, ?_, ?_, ?_⟩, ?_, ?_, ?_, ?_, ?_⟩ <;>
      simp only [selector_eq_iff, field] <;> omega

/-! ### The decoder and the encoder -/

/-- The selector fields of a command's word above `rd`: those the command does not use are 0 (R102). -/
def Instr.sourceFields : Instr → RegSel × RegSel × RegSel
  | .modexp _ rs1 rs2 rs3 => (rs1, rs2, rs3)
  | .modinv _ rs1 rs2 => (rs1, rs2, 0)
  | .gcd _ rs1 rs2 => (rs1, rs2, 0)
  | .lcm _ rs1 rs2 => (rs1, rs2, 0)
  | .clr _ => (0, 0, 0)

/-- The word `w` has the fields of the command `i`, the unused ones 0 (R102). -/
def Instr.HasWord (i : Instr) (w : Word) : Prop :=
  HasFields w i.opcode i.rd i.sourceFields.1 i.sourceFields.2.1 i.sourceFields.2.2

/-- The encoder puts exactly the fields of the command into the word. -/
theorem Instr.hasWord_iff_encode (i : Instr) (w : Word) : i.HasWord w ↔ encode i = w := by
  cases i <;> exact hasFields_iff_assembleWord w _ _ _ _ _

/-- The decoder gives a command exactly when the word has its fields (R106). -/
theorem decode_eq_ok_iff_hasWord (w : Word) (i : Instr) : decode w = .ok i ↔ i.HasWord w := by
  constructor
  · intro h
    simp only [decode] at h
    split_ifs at h with hbits hop hop hsel hop hsel hop hsel hop hsel <;> cases h <;>
      have hres : ReservedClear w := (reservedClear_iff_fields w).2 (by simpa using hbits)
    · exact ⟨hres, hop, rfl, rfl, rfl, rfl⟩
    · exact ⟨hres, hop, rfl, rfl, rfl, hsel⟩
    · exact ⟨hres, hop, rfl, rfl, rfl, hsel⟩
    · exact ⟨hres, hop, rfl, rfl, rfl, hsel⟩
    · obtain ⟨hrs1, hrs2, hrs3⟩ := hsel
      exact ⟨hres, hop, rfl, hrs1, hrs2, hrs3⟩
  · rintro ⟨hres, hop, hrd, hrs1, hrs2, hrs3⟩
    rw [reservedClear_iff_fields] at hres
    cases i <;> simp_all [decode, Instr.opcode, Instr.rd, Instr.sourceFields]

/-- The decoder is the inverse of the encoder on the words that are commands (R102, R106). -/
theorem decode_eq_ok_iff_encode (w : Word) (i : Instr) : decode w = .ok i ↔ encode i = w :=
  (decode_eq_ok_iff_hasWord w i).trans (i.hasWord_iff_encode w)

/-- Settles O1: the word of a command has its fields, and the decoder finds them. -/
theorem decodeEncodeRoundTrip : Obligations.DecodeEncodeRoundTrip :=
  fun i => (decode_eq_ok_iff_encode (encode i) i).2 rfl

/-- Settles O2: a word that decodes has the fields of its command, and the fields determine the word. -/
theorem decodedWordIsTheEncoding : Obligations.DecodedWordIsTheEncoding :=
  fun w i h => (decode_eq_ok_iff_encode w i).1 h

/-- A word is illegal when it decodes to no command (R103). -/
theorem decode_error_iff (w : Word) : (∃ e, decode w = .error e) ↔ ¬ ∃ i, decode w = .ok i := by
  cases decode w <;> simp

/-! ### The opcode map -/

/-- A field that the mask covers whole has, in a word the row selects, the value of the row's match (R102). -/
theorem OpcodeRow.field_of_selects {r : OpcodeRow} {w : Word} (h : r.selects w = true) {lo len : Nat}
    (hmask : field r.mask lo len = 2 ^ len - 1) : field w lo len = field r.value lo len := by
  have hword : w &&& r.mask = r.value := by simpa [OpcodeRow.selects] using h
  have hand : field (w &&& r.mask) lo len = field w lo len &&& field r.mask lo len := by
    simp only [field, BitVec.toNat_and, Nat.and_div_two_pow, Nat.and_mod_two_pow]
  rw [← hword, hand, hmask, Nat.and_two_pow_sub_one_eq_mod, field, Nat.mod_mod]

/-- Every mask covers the reserved bits, which the match has 0, and the opcode (R102). -/
theorem fields_of_selects {r : OpcodeRow} (hr : r ∈ opcodeMap) {w : Word} (h : r.selects w = true) :
    ReservedClear w ∧ field w 0 4 = field r.value 0 4 := by
  have hmask : ∀ r ∈ opcodeMap, field r.mask 0 4 = 15 ∧
      field r.mask 7 1 = 1 ∧ field r.mask 11 1 = 1 ∧ field r.mask 15 1 = 1 ∧ field r.mask 19 13 = 8191 := by decide
  have hvalue : ∀ r ∈ opcodeMap,
      field r.value 7 1 = 0 ∧ field r.value 11 1 = 0 ∧ field r.value 15 1 = 0 ∧ field r.value 19 13 = 0 := by decide
  obtain ⟨m0, m7, m11, m15, m19⟩ := hmask r hr
  refine ⟨(reservedClear_iff_fields w).2 ?_, r.field_of_selects h m0⟩
  rw [r.field_of_selects h m7, r.field_of_selects h m11, r.field_of_selects h m15, r.field_of_selects h m19]
  exact hvalue r hr

/-- A word that a row selects is a command of the row, with the selectors the word holds (R102). -/
theorem exists_hasWord_of_selects {r : OpcodeRow} (hr : r ∈ opcodeMap) {w : Word} (h : r.selects w = true) :
    ∃ i : Instr, i.HasWord w ∧ i.row = r := by
  obtain ⟨hres, hop⟩ := fields_of_selects hr h
  have hzero : ∀ lo, field r.mask lo 3 = 7 → field r.value lo 3 = 0 → selector w lo = 0 := fun lo hmask hvalue =>
    (selector_eq_iff w lo 0).2 ((r.field_of_selects h hmask).trans hvalue)
  simp only [opcodeMap, List.mem_cons, List.not_mem_nil, or_false] at hr
  rcases hr with rfl | rfl | rfl | rfl | rfl
  · exact ⟨.modexp (selector w 4) (selector w 8) (selector w 12) (selector w 16), ⟨hres, hop, rfl, rfl, rfl, rfl⟩, rfl⟩
  · exact ⟨.modinv (selector w 4) (selector w 8) (selector w 12), ⟨hres, hop, rfl, rfl, rfl, hzero 16 rfl rfl⟩, rfl⟩
  · exact ⟨.gcd (selector w 4) (selector w 8) (selector w 12), ⟨hres, hop, rfl, rfl, rfl, hzero 16 rfl rfl⟩, rfl⟩
  · exact ⟨.lcm (selector w 4) (selector w 8) (selector w 12), ⟨hres, hop, rfl, rfl, rfl, hzero 16 rfl rfl⟩, rfl⟩
  · exact ⟨.clr (selector w 4), ⟨hres, hop, rfl, hzero 8 rfl rfl, hzero 12 rfl rfl, hzero 16 rfl rfl⟩, rfl⟩

/-- Every command's word selects the command's row, which stands in the map (R102). -/
theorem encodesInItsRow (i : Instr) : Laws.EncodesInItsRow.Statement i := by
  cases i with
  | modexp rd rs1 rs2 rs3 => exact Laws.EncodesInItsRow.modexp rd rs1 rs2 rs3
  | modinv rd rs1 rs2 => exact Laws.EncodesInItsRow.modinv rd rs1 rs2
  | gcd rd rs1 rs2 => exact Laws.EncodesInItsRow.gcd rd rs1 rs2
  | lcm rd rs1 rs2 => exact Laws.EncodesInItsRow.lcm rd rs1 rs2
  | clr rd => exact Laws.EncodesInItsRow.clr rd

/-- A row of the map selects exactly the words that decode to one of its commands (R102). -/
theorem selects_iff_decode {r : OpcodeRow} (hr : r ∈ opcodeMap) (w : Word) :
    r.selects w = true ↔ ∃ i, decode w = .ok i ∧ i.row = r := by
  constructor
  · intro h
    obtain ⟨i, hi, hrow⟩ := exists_hasWord_of_selects hr h
    exact ⟨i, (decode_eq_ok_iff_hasWord w i).2 hi, hrow⟩
  · rintro ⟨i, hi, rfl⟩
    obtain ⟨-, hselects, -⟩ := encodesInItsRow i
    rwa [(decode_eq_ok_iff_encode w i).1 hi] at hselects

/-- Settles O3: a selected word is a command of the row, and a command's word selects its row. -/
theorem decodeAgreesWithMaskAndMatch : Obligations.DecodeAgreesWithMaskAndMatch := by
  intro w
  refine ⟨fun r hr => selects_iff_decode hr w, ?_⟩
  rw [decode_error_iff]
  constructor
  · intro hno r hr
    by_contra hselects
    obtain ⟨i, hi, -⟩ := (selects_iff_decode hr w).1 (by simpa using hselects)
    exact hno ⟨i, hi⟩
  · rintro hnone ⟨i, hi⟩
    obtain ⟨-, -, hrow⟩ := encodesInItsRow i
    simpa [hnone i.row hrow] using (selects_iff_decode hrow w).2 ⟨i, hi, rfl⟩

/-! ### The words that are commands -/

/-- A word that passes the checks of R103 is a command, with the selectors the word holds. -/
theorem exists_hasWord_of_wellFormed {w : Word} (h : WellFormed w) : ∃ i : Instr, i.HasWord w := by
  obtain ⟨hres, ⟨hlo, hhi⟩, hrs3, hrs12⟩ := h
  have hop : field w 0 4 = w.toNat % 16 := by simp [field]
  have hsel : ∀ lo, w.toNat / 2 ^ lo % 8 = 0 → selector w lo = 0 := fun lo => (selector_eq_iff w lo 0).2
  generalize w.toNat % 16 = op at hop hlo hhi hrs3 hrs12
  interval_cases op
  · exact ⟨.modexp (selector w 4) (selector w 8) (selector w 12) (selector w 16), hres, hop, rfl, rfl, rfl, rfl⟩
  · exact ⟨.modinv (selector w 4) (selector w 8) (selector w 12), hres, hop, rfl, rfl, rfl, hsel 16 (hrs3 (by decide))⟩
  · exact ⟨.gcd (selector w 4) (selector w 8) (selector w 12), hres, hop, rfl, rfl, rfl, hsel 16 (hrs3 (by decide))⟩
  · exact ⟨.lcm (selector w 4) (selector w 8) (selector w 12), hres, hop, rfl, rfl, rfl, hsel 16 (hrs3 (by decide))⟩
  · obtain ⟨hrs1, hrs2⟩ := hrs12 (by decide)
    exact ⟨.clr (selector w 4), hres, hop, rfl, hsel 8 hrs1, hsel 12 hrs2, hsel 16 (hrs3 (by decide))⟩

/-- The word of a command passes the checks of R103. -/
theorem Instr.HasWord.wellFormed {i : Instr} {w : Word} (h : i.HasWord w) : WellFormed w := by
  obtain ⟨hres, hop, -, hrs1, hrs2, hrs3⟩ := h
  rw [selector_eq_iff] at hrs1 hrs2 hrs3
  have hop' : w.toNat % 16 = i.opcode.toNat := by simpa [field] using hop
  refine ⟨hres, ?_⟩
  rw [OpcodeDefined, UnusedSelectorsClear, hop']
  cases i with
  | modexp => simp [Instr.opcode]
  | modinv => exact ⟨by simp [Instr.opcode], fun _ => hrs3, nofun⟩
  | gcd => exact ⟨by simp [Instr.opcode], fun _ => hrs3, nofun⟩
  | lcm => exact ⟨by simp [Instr.opcode], fun _ => hrs3, nofun⟩
  | clr => exact ⟨by simp [Instr.opcode], fun _ => hrs3, fun _ => ⟨hrs1, hrs2⟩⟩

/-- The words that decode are the well-formed ones (R103, R106). -/
theorem exists_decode_iff_wellFormed (w : Word) : (∃ i, decode w = .ok i) ↔ WellFormed w := by
  simp only [decode_eq_ok_iff_hasWord]
  exact ⟨fun ⟨_, h⟩ => h.wellFormed, exists_hasWord_of_wellFormed⟩

/-- Settles O4: the words that decode are the well-formed ones. -/
theorem illegalWordsAreThoseListed : Obligations.IllegalWordsAreThoseListed := by
  intro w
  rw [decode_error_iff, exists_decode_iff_wellFormed]

/-! ### Field by field, and the number of commands -/

/-- The fields of a word as the spec writes them, `w[hi:lo]` (R100, R106). -/
theorem hasFields_iff_extractLsb (w : Word) (op : Opcode) (rd rs1 rs2 rs3 : RegSel) :
    HasFields w op rd rs1 rs2 rs3 ↔
      (w[7] = false ∧ w[11] = false ∧ w[15] = false ∧ w.extractLsb 31 19 = 0) ∧ w.extractLsb 3 0 = op ∧
        (w.extractLsb 6 4).toNat = rd.val ∧ (w.extractLsb 10 8).toNat = rs1.val ∧
        (w.extractLsb 14 12).toNat = rs2.val ∧ (w.extractLsb 18 16).toNat = rs3.val := by
  have hbit : ∀ k (hk : k < 32), w[k] = false ↔ field w k 1 = 0 := fun k _ => getLsbD_eq_false_iff_field w k
  have hhigh : w.extractLsb 31 19 = 0 ↔ field w 19 13 = 0 := by
    rw [← BitVec.toNat_inj, extractLsb_toNat_eq_field]; rfl
  have hop : w.extractLsb 3 0 = op ↔ field w 0 4 = op.toNat := by
    rw [← BitVec.toNat_inj, extractLsb_toNat_eq_field]
  have hsel : ∀ hi lo (r : RegSel), hi - lo + 1 = 3 → ((w.extractLsb hi lo).toNat = r.val ↔ selector w lo = r) :=
    fun hi lo r hlen => by rw [extractLsb_toNat_eq_field, hlen, selector_eq_iff]
  rw [hbit, hbit, hbit, hhigh, hop, hsel 6 4 rd rfl, hsel 10 8 rs1 rfl, hsel 14 12 rs2 rfl, hsel 18 16 rs3 rfl,
    ← reservedClear_iff_fields]
  constructor
  · rintro ⟨hres, hop, hrd, hrs1, hrs2, hrs3⟩
    exact ⟨hres, hop, hrd, hrs1, hrs2, hrs3⟩
  · rintro ⟨hres, hop, hrd, hrs1, hrs2, hrs3⟩
    exact ⟨hres, hop, hrd, hrs1, hrs2, hrs3⟩

/-- The commands, constructor by constructor: `MODEXP` with four selectors, three commands with three, `CLR` with one (R102). -/
def Instr.equivSelectors : Instr ≃ (RegSel × RegSel × RegSel × RegSel) ⊕ (RegSel × RegSel × RegSel) ⊕
    (RegSel × RegSel × RegSel) ⊕ (RegSel × RegSel × RegSel) ⊕ RegSel where
  toFun
    | .modexp rd rs1 rs2 rs3 => .inl (rd, rs1, rs2, rs3)
    | .modinv rd rs1 rs2 => .inr (.inl (rd, rs1, rs2))
    | .gcd rd rs1 rs2 => .inr (.inr (.inl (rd, rs1, rs2)))
    | .lcm rd rs1 rs2 => .inr (.inr (.inr (.inl (rd, rs1, rs2))))
    | .clr rd => .inr (.inr (.inr (.inr rd)))
  invFun
    | .inl (rd, rs1, rs2, rs3) => .modexp rd rs1 rs2 rs3
    | .inr (.inl (rd, rs1, rs2)) => .modinv rd rs1 rs2
    | .inr (.inr (.inl (rd, rs1, rs2))) => .gcd rd rs1 rs2
    | .inr (.inr (.inr (.inl (rd, rs1, rs2)))) => .lcm rd rs1 rs2
    | .inr (.inr (.inr (.inr rd))) => .clr rd
  left_inv i := by cases i <;> rfl
  right_inv v := by rcases v with _ | _ | _ | _ | _ <;> rfl

/-- There are `8^4 + 3*8^3 + 8` commands (R106). -/
theorem card_instr : Nat.card Instr = 5640 := by
  rw [Nat.card_congr Instr.equivSelectors]
  simp

/-- Distinct commands have distinct words, so there are as many words as commands (R106). -/
theorem card_decodes : Nat.card {w : Word // ∃ i, decode w = .ok i} = Nat.card Instr := by
  have hinj : Function.Injective encode := fun i j hij =>
    Except.ok.inj (by rw [← decodeEncodeRoundTrip i, hij, decodeEncodeRoundTrip j])
  simp only [decode_eq_ok_iff_encode]
  exact Nat.card_range_of_injective hinj

/-- Settles O5: the word has the fields of the command, and the words are counted by their commands. -/
theorem decodeReadsTheFields : Obligations.DecodeReadsTheFields := by
  refine ⟨fun w rd rs1 rs2 rs3 => ?_, card_decodes.trans card_instr⟩
  have hzero : ∀ hi lo, w.extractLsb hi lo = 0 ↔ (w.extractLsb hi lo).toNat = (0 : RegSel).val := fun hi lo => by
    rw [← BitVec.toNat_inj]; rfl
  have hcommand := fun i : Instr => (decode_eq_ok_iff_hasWord w i).trans (hasFields_iff_extractLsb w _ _ _ _ _)
  rw [hzero 18 16, hzero 14 12, hzero 10 8]
  exact ⟨hcommand (.modexp rd rs1 rs2 rs3), hcommand (.modinv rd rs1 rs2), hcommand (.gcd rd rs1 rs2),
    hcommand (.lcm rd rs1 rs2), hcommand (.clr rd)⟩

/-- Settles O6: the words are computed, and the illegal ones fail a check of R103. -/
theorem workedEncodings : Obligations.WorkedEncodings := by
  constructor
  · intro p hp
    have hencode : encode p.1 = p.2 := by revert p; decide
    exact ⟨hencode, (decode_eq_ok_iff_encode p.2 p.1).2 hencode⟩
  · simp only [exists_decode_iff_wellFormed, List.forall_mem_cons]
    exact ⟨by decide, by decide, by decide, by decide, by decide, by decide, nofun⟩

end Sys2Proof

namespace Sys2Proof.Machine

/-! ## The two lines that look at an answer -/

/-- A host's turn out of reset carries out what the host presents, and goes on to the next line (R60, R70). -/
theorem step_presented {s : State} {x : Txn} (hturn : s.nextTurn = .host) (hrst : s.rstN = true)
    (hx : s.presented = some x) : step s = transact s.popTurn.nextLine x := by
  have hmove : step s = hostMove s.popTurn := by simp [step, move, hturn]
  rw [hmove]
  simp [hostMove, hrst, State.presented_popTurn, hx]

/-- The step at a `WAIT` reads `STATUS`, and the line stands while `BUSY` is 1 (R109). -/
theorem step_wait {s : State} {rest : List HostLine} (hturn : s.nextTurn = .host) (hrst : s.rstN = true)
    (hhost : s.host = .wait :: rest) : step s = .next { s with
      host := if s.busy then s.host else rest
      turns := s.turns.tail
      answers := .okRead s.statusWord :: s.answers } := by
  obtain ⟨hbit, -⟩ := statusWord_bits s.busy s.done s.err s.errcode
  have hkeeps : s.popTurn.keepsLine = s.busy := by
    simp only [State.keepsLine, State.popTurn_host, hhost]; exact hbit
  rw [step_presented (x := .read 0x000C 4) hturn hrst (by simp [State.presented, hhost]), State.nextLine, hkeeps]
  cases s.busy
  · simp [State.popLine, State.popTurn, hhost]; rfl
  · rfl

/-- While a command runs `STATUS` reads 1: `BUSY` and no flag (R26, R31). -/
theorem State.Inv.statusWord_of_run {s : State} (h : s.Inv) (hrun : s.phase = .run) : s.statusWord = 1 := by
  obtain ⟨hdone, herr, hcode⟩ := h.flags_of_run hrun
  simp [State.statusWord, State.busy, hrun, hdone, herr, hcode, bit]

/-- Settles O46: the answer's bit 0 is `BUSY`, which keeps the line or lets it go. -/
theorem waitPollsUntilNotBusy : Obligations.WaitPollsUntilNotBusy := by
  intro s rest hinv hrst hturn hhost
  have hstep := step_wait hturn hrst hhost
  constructor
  · intro hrun
    simpa [State.busy, hrun, hinv.statusWord_of_run hrun] using hstep
  · intro hidle
    have hbusy : s.busy = false := by simp [State.busy, hidle]
    obtain ⟨hbit, -⟩ := statusWord_bits s.busy s.done s.err s.errcode
    exact ⟨s.statusWord, hbit.trans hbusy, rfl, by simpa [hbusy] using hstep⟩

/-- The word `ABORT` writes after reading `CTRL`: bit 4, and the enables as they were read (R109). -/
theorem abortWord_bits (ieDone ieErr : Bool) :
    let v : Word := (BitVec.ofNat 32 (bit ieDone + 2 * bit ieErr) &&& 3) + 0x10
    v.getLsbD 0 = ieDone ∧ v.getLsbD 1 = ieErr ∧ v.getLsbD 4 = true := by
  revert ieDone ieErr; decide

/-- The `CTRL` write of `ABORT` while a command runs, after the read of `CTRL`: it ends the run and nothing else (R109, R191). -/
theorem writeCtrl_abortWord {s : State} {rest : List Answer} (hrun : s.phase = .run)
    (hread : s.answers = .okRead s.ctrlWord :: rest) : s.writeCtrl s.abortWord = s.toIdle := by
  have hword : s.abortWord = (s.ctrlWord &&& 3) + 0x10 := by simp [State.abortWord, State.lastValue, hread]
  obtain ⟨hieDone, hieErr, habort⟩ := abortWord_bits s.ieDone s.ieErr
  have henables : s.setEnables s.abortWord = s := by
    rw [hword, State.setEnables]; simp only [State.ctrlWord, hieDone, hieErr]
  have hbit : s.abortWord.getLsbD 4 = true := hword ▸ habort
  simp [State.writeCtrl, hbit, henables, State.abortCommand, hrun]

/-- The step at the second half of `ABORT` while a command runs, after the read of `CTRL` (R109). -/
theorem step_abortWrite {s : State} {rest : List HostLine} {answers : List Answer} (hturn : s.nextTurn = .host)
    (hrst : s.rstN = true) (hrun : s.phase = .run) (hhost : s.host = .abortWrite :: rest)
    (hread : s.answers = .okRead s.ctrlWord :: answers) :
    step s = .next { s.toIdle with host := rest, turns := s.turns.tail, answers := .okWrite :: s.answers } := by
  have hwrite : s.popTurn.popLine.writeCtrl s.abortWord = s.popTurn.popLine.toIdle :=
    writeCtrl_abortWord (s := s.popTurn.popLine) hrun hread
  have hnext : s.popTurn.nextLine = s.popTurn.popLine := by simp [State.nextLine, State.keepsLine, hhost]
  have hctrl : transact s.popTurn.popLine (.write 0x0008 4 s.abortWord) =
      .next ((s.popTurn.popLine.writeCtrl s.abortWord).respond .okWrite) := rfl
  rw [step_presented (x := .write 0x0008 4 s.abortWord) hturn hrst (by simp [State.presented, hhost]), hnext, hctrl, hwrite]
  simp [State.popLine, State.popTurn, State.toIdle, State.respond, hhost]

/-- Settles O47: the read of `CTRL`, then the write that aborts. -/
theorem abortMacroKeepsTheEnables : Obligations.AbortMacroKeepsTheEnables := by
  intro s rest hrst hrun hhost hturns
  have hread : step s = .next { s with
      host := .abortWrite :: rest, turns := [.host], answers := .okRead s.ctrlWord :: s.answers } := by
    rw [step_bus (by simp [State.nextTurn, hturns]) hrst hhost, hturns]; rfl
  rw [run_succ 1 hread]
  exact run_succ 0 (step_abortWrite rfl hrst hrun rfl rfl)

end Sys2Proof.Machine

namespace Sys2Proof.Machine

/-! ## The loop of `MODEXP` -/

/-- R132 after `k` iterations, with the exponent that is left: the bits of `e` above the `k` used up. -/
structure ModexpLoop (b e m k acc bs ex : Nat) : Prop where
  product : acc * bs ^ ex % m = b ^ e % m
  base : 0 < k → bs < m
  exponent : ex = e / 2 ^ k
  untouched : e % 2 ^ k = 0 → acc = 1
  reduced : e % 2 ^ k ≠ 0 → acc < m

/-- `Init_MODEXP` establishes the loop invariant (R130, R132). -/
theorem ModexpLoop.init (b e m : Nat) : ModexpLoop b e m 0 1 b e where
  product := by rw [Nat.one_mul]
  base := nofun
  exponent := by simp
  untouched _ := rfl
  reduced h := absurd (Nat.mod_one e) h

/-- One iteration of `Step_MODEXP` keeps the loop invariant (R130, R132). -/
theorem ModexpLoop.iteration {b e m k acc bs ex : Nat} (h : ModexpLoop b e m k acc bs ex) (hm : m ≠ 0) :
    ModexpLoop b e m (k + 1) (if ex % 2 = 1 then mulmod acc bs m else acc) (mulmod bs bs m) (ex / 2) := by
  obtain ⟨hproduct, -, rfl, huntouched, hreduced⟩ := h
  have hmod : ∀ a, mulmod a bs m < m := fun a => Nat.mod_lt _ (Nat.pos_of_ne_zero hm)
  have hbits : e % 2 ^ (k + 1) = e % 2 ^ k + 2 ^ k * (e / 2 ^ k % 2) := Nat.mod_pow_succ
  refine ⟨(modexp_iteration acc bs _ m).trans hproduct, fun _ => hmod bs, ?_, ?_, ?_⟩
  · rw [Nat.div_div_eq_div_mul, pow_succ]
  all_goals rcases Nat.mod_two_eq_zero_or_one (e / 2 ^ k) with hbit | hbit
  · simpa [hbits, hbit] using huntouched
  · simp [hbits, hbit]
  · simpa [hbits, hbit] using hreduced
  · exact fun _ => by simpa [hbit] using hmod acc

/-- The exponent is used up exactly after `bitlen(e)` iterations (R132, R134). -/
theorem ModexpLoop.lt_bitlen_iff {b e m k acc bs ex : Nat} (h : ModexpLoop b e m k acc bs ex) :
    k < bitlen e ↔ ex ≠ 0 := by
  rw [h.exponent, ← Nat.not_le, bitlen_le_iff, ne_eq, Nat.div_eq_zero_iff_lt (Nat.two_pow_pos k)]

/-- Engine steps that reach a state, and one step more from there. -/
theorem engineSteps_snoc {k : Nat} {s t : State} (h : engineSteps k s = .next t) :
    engineSteps (k + 1) s = engineStep t := by
  induction k generalizing s with
  | zero => cases h; cases hstep : engineStep t <;> simp [engineSteps, hstep]
  | succ k ih =>
    obtain ⟨s1, hs1, hrest⟩ := engineSteps_succ_iff.1 h
    rw [engineSteps_succ (k + 1) hs1, ih hrest]

/-- Up to `bitlen(e)` steps an accepted `MODEXP` changes its working registers only, and they keep the loop invariant. -/
theorem engineSteps_modexp {s : State} {b e m k : Nat} (hrun : s.phase = .run) (hop : s.cur.op = 1)
    (hwk : s.wk = .exp 1 b e m) (hm : m ≠ 0) (hk : k ≤ bitlen e) :
    ∃ acc bs ex, engineSteps k s = .next { s with wk := .exp acc bs ex m } ∧ ModexpLoop b e m k acc bs ex := by
  induction k with
  | zero => exact ⟨1, b, e, by rw [← hwk, engineSteps_zero], .init b e m⟩
  | succ k ih =>
    obtain ⟨acc, bs, ex, hsteps, hloop⟩ := ih (Nat.le_of_succ_le hk)
    have hex : ex ≠ 0 := hloop.lt_bitlen_iff.1 hk
    refine ⟨_, _, _, ?_, hloop.iteration hm⟩
    rw [engineSteps_snoc hsteps]
    exact engineStep_run (r := .cont _) (s := { s with wk := .exp acc bs ex m }) hrun
      (by simp [stepOp, stepModexp, hop, hm, hex])

/-- Settles O24: the loop invariant holds at the command's `Init`, and every iteration keeps it. -/
theorem modexpLoopInvariant : Obligations.ModexpLoopInvariant := by
  intro s t rd rs1 rs2 rs3 hidle hm ht b e m k hk
  cases (exec_idle _ hidle).symm.trans ht
  obtain ⟨acc, bs, ex, hsteps, hloop⟩ :=
    engineSteps_modexp (s := s.accepted (.modexp rd rs1 rs2 rs3)) rfl rfl rfl hm hk
  exact ⟨_, acc, bs, ex, hsteps, rfl, rfl, hloop.product, hloop.base, hloop.untouched, hloop.reduced,
    hloop.lt_bitlen_iff⟩

/-- Settles O18: the accepted command ends in its big-step result, the fault without a modulus and the power with one. -/
theorem modexpResult : Obligations.ModexpResult := by
  intro s rd rs1 rs2 rs3 hidle b e m
  have hends := accepted_endsAfter (.modexp rd rs1 rs2 rs3) s
  refine ⟨_, (s.accepted (.modexp rd rs1 rs2 rs3)).apply (bigStep (.modexp rd rs1 rs2 rs3) s),
    exec_idle _ hidle, rfl, rfl, fun hm => ?_, fun hm => ?_⟩
  · have hcount : stepCount (.modexp rd rs1 rs2 rs3) s = 1 := if_pos hm
    have hresult : bigStep (.modexp rd rs1 rs2 rs3) s = .fault .modZero := if_pos hm
    exact ⟨hcount ▸ hends, by rw [hresult]; rfl⟩
  · have hcount : stepCount (.modexp rd rs1 rs2 rs3) s = bitlen e + 1 := if_neg hm
    have hresult : bigStep (.modexp rd rs1 rs2 rs3) s = .complete (b ^ e % m) := if_neg hm
    exact ⟨hcount ▸ hends, Nat.mod_lt _ (Nat.pos_of_ne_zero hm), by rw [hresult]; rfl⟩

end Sys2Proof.Machine

namespace Sys2Proof.Machine

/-! ## The results of `GCD` and `LCM` -/

/-- Up to `E(a, b)` steps a running `GCD` changes its working registers only, and the pair keeps its gcd (R150, R151). -/
theorem engineSteps_gcd {s : State} {a b k : Nat} (hrun : s.phase = .run) (hop : s.cur.op = 3)
    (hwk : s.wk = .gcd a b) (hk : k ≤ euclidIters a b) :
    ∃ p q, engineSteps k s = .next { s with wk := .gcd p q } ∧ Nat.gcd p q = Nat.gcd a b := by
  induction k generalizing s a b with
  | zero => exact ⟨a, b, by rw [← hwk, engineSteps_zero], rfl⟩
  | succ k ih =>
    have hb : b ≠ 0 := by rintro rfl; simp at hk
    have hstep : engineStep s = .next { s with wk := .gcd b (a % b) } :=
      engineStep_run (r := .cont _) hrun (by simp [hwk, stepOp, stepGcd, hop, hb])
    rw [euclidIters_step hb] at hk
    obtain ⟨p, q, hsteps, hgcd⟩ := ih (s := { s with wk := .gcd b (a % b) }) hrun hop rfl (Nat.le_of_succ_le_succ hk)
    exact ⟨p, q, by rw [engineSteps_succ k hstep, hsteps], hgcd.trans (gcd_iteration a b).symm⟩

/-- Settles O20: the accepted command ends in its big-step result, the gcd, and every iteration on the way keeps the gcd of the pair. -/
theorem gcdResult : Obligations.GcdResult := by
  intro s rd rs1 rs2 hidle a b
  refine ⟨_, _, Nat.gcd a b, exec_idle _ hidle, rfl, rfl, accepted_endsAfter (.gcd rd rs1 rs2) s, rfl, ?_, ?_, ?_⟩
  · rintro ⟨ha, hb⟩
    exact Nat.gcd_eq_zero_iff.2 ⟨ha, hb⟩
  · intro hne
    have hpos : 0 < Nat.gcd a b := Nat.pos_of_ne_zero (mt Nat.gcd_eq_zero_iff.1 hne)
    exact ⟨Nat.gcd_dvd_left a b, Nat.gcd_dvd_right a b, fun d hda hdb => Nat.le_of_dvd hpos (Nat.dvd_gcd hda hdb)⟩
  · intro k hk
    obtain ⟨p, q, hsteps, hgcd⟩ := engineSteps_gcd (s := s.accepted (.gcd rd rs1 rs2)) rfl rfl rfl hk
    exact ⟨_, p, q, hsteps, rfl, hgcd⟩

/-- Settles O21: the accepted command ends in its big-step result, a fault or `Nat.lcm`, which is the least common multiple. -/
theorem lcmResult : Obligations.LcmResult := by
  intro s rd rs1 rs2 hidle a b l
  have hends := accepted_endsAfter (.lcm rd rs1 rs2) s
  have hcount : ¬(a = 0 ∧ b = 0) → stepCount (.lcm rd rs1 rs2) s = euclidIters a b + 1 := fun hne => if_neg hne
  have hlcm : l = Nat.lcm a b := rfl
  refine ⟨_, (s.accepted (.lcm rd rs1 rs2)).apply (bigStep (.lcm rd rs1 rs2) s), exec_idle _ hidle, rfl, rfl,
    fun hzero => ?_, fun hne hbig => ?_, fun hne hfits => ?_, (Nat.gcd_dvd_left a b).mul_right b,
    fun _ hzero => ?_, fun ha hb => ?_⟩
  · have hone : stepCount (.lcm rd rs1 rs2) s = 1 := if_pos hzero
    have hresult : bigStep (.lcm rd rs1 rs2) s = .fault .lcmZero := if_pos hzero
    exact ⟨hone ▸ hends, by rw [hresult]; rfl⟩
  · have hresult : bigStep (.lcm rd rs1 rs2) s = .fault .overflow := (if_neg hne).trans (if_pos hbig)
    exact ⟨hcount hne ▸ hends, by rw [hresult]; rfl⟩
  · have hresult : bigStep (.lcm rd rs1 rs2) s = .complete l := (if_neg hne).trans (if_neg (Nat.not_le.2 hfits))
    exact ⟨hcount hne ▸ hends, by rw [hresult]; rfl⟩
  · rw [hlcm]
    exact Nat.lcm_eq_zero_iff.2 hzero
  · rw [hlcm]
    exact ⟨Nat.lcm_pos ha hb, Nat.dvd_lcm_left a b, Nat.dvd_lcm_right a b,
      fun m hm ham hbm => Nat.le_of_dvd hm (Nat.lcm_dvd ham hbm)⟩

/-- The least common multiple has no more bits than both numbers together (R157). -/
theorem lcm_lt_two_pow {a b W : Nat} (h : bitlen a + bitlen b ≤ W) : Nat.lcm a b < 2 ^ W :=
  calc Nat.lcm a b ≤ a * b := Nat.div_le_self _ _
    _ < 2 ^ bitlen a * 2 ^ bitlen b :=
      Nat.mul_lt_mul'' ((bitlen_le_iff a _).1 le_rfl) ((bitlen_le_iff b _).1 le_rfl)
    _ = 2 ^ (bitlen a + bitlen b) := (pow_add 2 _ _).symm
    _ ≤ 2 ^ W := Nat.pow_le_pow_right two_pos h

/-- Settles O27: the least common multiple fits the width, so neither fault of `LCM` occurs. -/
theorem lcmFitsWhenLengthsFit : Obligations.LcmFitsWhenLengthsFit := by
  intro s rd rs1 rs2 hidle hlen hne
  obtain ⟨t, u, hexec, -, -, -, -, hcompletes, -⟩ := lcmResult s rd rs1 rs2 hidle
  obtain ⟨hends, rfl⟩ := hcompletes hne (lcm_lt_two_pow hlen)
  exact ⟨t, _, _, hexec, hends, rfl, rfl, s.readX_writeX_same rd _⟩

end Sys2Proof.Machine

namespace Sys2Proof.Machine

/-! ## The loop and the result of `MODINV` -/

/-- The Euclidean iteration is over exactly when the second component is 0 (R46). -/
theorem euclidIters_pos_iff (a b : Nat) : 0 < euclidIters a b ↔ b ≠ 0 := by
  by_cases hb : b = 0
  · simp [hb]
  · simp [euclidIters_step hb, hb]

/-- R172 and R174 in a `MODINV` run for `a` modulo `n` after `k` iterations, with the iterations that are left. -/
structure ModinvLoop (a n k r0 r1 : Nat) (t0 t1 : Int) : Prop where
  carries0 : (n : Int) ∣ t0 * a - r0
  carries1 : (n : Int) ∣ t1 * a - r1
  gcd : Nat.gcd r0 r1 = Nat.gcd n a
  left : k + euclidIters r0 r1 = euclidIters n a
  positive : 0 < r0
  bound : t0.natAbs ≤ n
  signs : t0 * t1 ≤ 0
  sizes : t1.natAbs * r0 + t0.natAbs * r1 = n

/-- `Init_MODINV` establishes the loop invariant (R170, R172). -/
theorem ModinvLoop.init (a : Nat) {n : Nat} (hn : n ≠ 0) : ModinvLoop a n 0 n a 0 1 where
  carries0 := by simp
  carries1 := by simp
  gcd := rfl
  left := Nat.zero_add _
  positive := Nat.pos_of_ne_zero hn
  bound := Nat.zero_le n
  signs := by simp
  sizes := by simp

/-- The second coefficient meets the bound of the first, since `r0` is not 0 (R174). -/
theorem ModinvLoop.bound1 {a n k r0 r1 : Nat} {t0 t1 : Int} (h : ModinvLoop a n k r0 r1 t0 t1) : t1.natAbs ≤ n :=
  calc t1.natAbs ≤ t1.natAbs * r0 := Nat.le_mul_of_pos_right _ h.positive
    _ ≤ t1.natAbs * r0 + t0.natAbs * r1 := Nat.le_add_right _ _
    _ = n := h.sizes

/-- One iteration of `Step_MODINV` keeps the loop invariant (R170, R172, R174). -/
theorem ModinvLoop.iteration {a n k r0 r1 : Nat} {t0 t1 : Int} (h : ModinvLoop a n k r0 r1 t0 t1) (hr1 : r1 ≠ 0) :
    ModinvLoop a n (k + 1) r1 (r0 % r1) t1 (t0 - (r0 / r1 : Nat) * t1) := by
  obtain ⟨hsigns, hsizes⟩ := coefficients_iteration h.signs h.sizes
  refine ⟨h.carries1, modinv_iteration h.carries0 h.carries1, (gcd_iteration r0 r1).symm.trans h.gcd, ?_,
    Nat.pos_of_ne_zero hr1, h.bound1, hsigns, hsizes⟩
  rw [← h.left, euclidIters_step hr1]
  omega

/-- The second remainder is 0 exactly after `E(n, a)` iterations (R172). -/
theorem ModinvLoop.lt_euclidIters_iff {a n k r0 r1 : Nat} {t0 t1 : Int} (h : ModinvLoop a n k r0 r1 t0 t1) :
    k < euclidIters n a ↔ r1 ≠ 0 := by
  rw [← euclidIters_pos_iff r0, ← h.left]
  omega

/-- A coefficient that carries 1 is no multiple of the modulus, so the bound of R174 is strict there. -/
theorem ModinvLoop.bound_lt {a n k r1 : Nat} {t0 t1 : Int} (h : ModinvLoop a n k 1 r1 t0 t1) (hn : 2 ≤ n) :
    t0.natAbs < n := by
  refine lt_of_le_of_ne h.bound fun heq => ?_
  have hdvd : (n : Int) ∣ t0 := Int.natCast_dvd.2 (dvd_of_eq heq.symm)
  have hone : (n : Int) ∣ 1 := (dvd_sub_right (hdvd.mul_right (a : Int))).1 h.carries0
  have hn1 : n = 1 := Nat.dvd_one.1 (by exact_mod_cast hone)
  omega

/-- Up to `E(n, a)` steps an accepted `MODINV` changes its working registers only, and they keep the loop invariant. -/
theorem engineSteps_modinv {s : State} {a n k : Nat} (hrun : s.phase = .run) (hop : s.cur.op = 2)
    (hwk : s.wk = .inv n a 0 1 n) (hn : n ≠ 0) (hk : k ≤ euclidIters n a) :
    ∃ r0 r1 t0 t1, engineSteps k s = .next { s with wk := .inv r0 r1 t0 t1 n } ∧ ModinvLoop a n k r0 r1 t0 t1 := by
  induction k with
  | zero => exact ⟨n, a, 0, 1, by rw [← hwk, engineSteps_zero], .init a hn⟩
  | succ k ih =>
    obtain ⟨r0, r1, t0, t1, hsteps, hloop⟩ := ih (Nat.le_of_succ_le hk)
    have hr1 : r1 ≠ 0 := hloop.lt_euclidIters_iff.1 hk
    refine ⟨_, _, _, _, ?_, hloop.iteration hr1⟩
    rw [engineSteps_snoc hsteps]
    exact engineStep_run (r := .cont _) (s := { s with wk := .inv r0 r1 t0 t1 n }) hrun
      (by simp [stepOp, stepModinv, hop, hn, hr1, sub_div_mul_eq_mod])

/-- Settles O25: the loop invariant holds at the command's `Init`, and every iteration keeps it. -/
theorem modinvLoopInvariant : Obligations.ModinvLoopInvariant := by
  intro s t rd rs1 rs2 hidle hn ht a n k hk
  cases (exec_idle _ hidle).symm.trans ht
  obtain ⟨r0, r1, t0, t1, hsteps, hloop⟩ :=
    engineSteps_modinv (s := s.accepted (.modinv rd rs1 rs2)) rfl rfl rfl hn hk
  exact ⟨_, r0, r1, t0, t1, hsteps, rfl, rfl, hloop.carries0, hloop.carries1, hloop.gcd, hloop.lt_euclidIters_iff⟩

/-- Settles O26: the sizes of the coefficients add up to the modulus, and the final one is inverse to `a`, so no multiple of it. -/
theorem modinvCoefficientsBounded : Obligations.ModinvCoefficientsBounded := by
  intro s t rd rs1 rs2 hidle hn ht k hk
  cases (exec_idle _ hidle).symm.trans ht
  obtain ⟨r0, r1, t0, t1, hsteps, hloop⟩ :=
    engineSteps_modinv (s := s.accepted (.modinv rd rs1 rs2)) rfl rfl rfl hn hk
  refine ⟨_, r0, r1, t0, t1, hsteps, rfl, hloop.bound, hloop.bound1, ?_⟩
  rintro - rfl htwo
  exact hloop.bound_lt htwo

/-- Below a coprime modulus the representative of the Bezout coefficient is an inverse, and the only one (R171, R175). -/
theorem mul_mod_eq_one_iff {a n r : Nat} (hg : Nat.gcd a n = 1) (hr : r < n) :
    a * r % n = 1 % n ↔ r = emod (Nat.gcdA a n) n := by
  have hmodEq : a * r % n = 1 % n ↔ (a : Int) * r ≡ 1 [ZMOD n] := by
    rw [← Nat.ModEq, ← Int.natCast_modEq_iff]; push_cast; rfl
  rw [hmodEq]
  constructor
  · intro hinverse
    have hdvd : (n : Int) ∣ r * a - 1 := by rw [mul_comm]; exact hinverse.symm.dvd
    have hself : emod r n = r := by rw [emod, Int.emod_eq_of_lt (by omega) (by omega), Int.toNat_natCast]
    rw [← emod_eq_of_inverse hg hdvd, hself]
  · rintro rfl
    rw [emod_cast _ (by omega)]
    calc (a : Int) * (Nat.gcdA a n % n) ≡ a * Nat.gcdA a n [ZMOD n] := (Int.mod_modEq _ _).mul_left _
      _ ≡ Nat.gcd a n [ZMOD n] := Int.gcd_a_modEq a n
      _ = 1 := by rw [hg]; rfl

/-- Settles O19: the accepted command ends in its big-step result, one of two faults or the Bezout coefficient's representative, which is the unique inverse. -/
theorem modinvResult : Obligations.ModinvResult := by
  intro s rd rs1 rs2 hidle a n
  have hends := accepted_endsAfter (.modinv rd rs1 rs2) s
  have hcount : n ≠ 0 → stepCount (.modinv rd rs1 rs2) s = euclidIters n a + 1 := fun hn => if_neg hn
  refine ⟨_, (s.accepted (.modinv rd rs1 rs2)).apply (bigStep (.modinv rd rs1 rs2) s), exec_idle _ hidle, rfl, rfl,
    fun hn => ?_, fun hn hg => ?_, fun hn hg => ?_⟩
  · have hone : stepCount (.modinv rd rs1 rs2) s = 1 := if_pos hn
    have hresult : bigStep (.modinv rd rs1 rs2) s = .fault .modZero := if_pos hn
    exact ⟨hone ▸ hends, by rw [hresult]; rfl⟩
  · have hresult : bigStep (.modinv rd rs1 rs2) s = .fault .notCoprime := (if_neg hn).trans (if_pos hg)
    exact ⟨hcount hn ▸ hends, by rw [hresult]; rfl⟩
  · have hresult : bigStep (.modinv rd rs1 rs2) s = .complete (emod (Nat.gcdA a n) n) :=
      (if_neg hn).trans (if_neg (not_not.2 hg))
    have hlt : emod (Nat.gcdA a n) n < n := emod_lt _ hn
    exact ⟨hcount hn ▸ hends, _, hlt, (mul_mod_eq_one_iff hg hlt).2 rfl,
      fun r' hr' => (mul_mod_eq_one_iff hg hr').1, by rw [hresult]; rfl⟩

end Sys2Proof.Machine

namespace Sys2Proof.Machine

/-! ## `CLR`, the limb write, and the writes of `CTRL` and `STATUS` -/

/-- Every limb of 0 is 0. -/
@[simp] theorem limb_zero (j : Nat) : limb 0 j = 0 := by simp [limb_eq_ofNat]

/-- Settles O22: the accepted command ends in its big-step result, the completion with 0. -/
theorem clrResult : Obligations.ClrResult := by
  intro s rd hidle
  have hdest : ((s.accepted (.clr rd)).complete 0).readX rd = 0 := (s.accepted (.clr rd)).readX_writeX_same rd 0
  exact ⟨_, _, exec_idle _ hidle, rfl, rfl, rfl, rfl, rfl, accepted_endsAfter (.clr rd) s, rfl,
    fun j => (congrArg (limb · j) hdest).trans (limb_zero j)⟩

/-- A limb write replaces one limb of one register (R66). -/
theorem State.limb_readX_writeLimb (s : State) (i r : RegSel) (j k : Nat) (d : Word) :
    limb ((s.writeLimb i j d).readX r) k = if r = i ∧ k = j then d else limb (s.readX r) k := by
  by_cases hr : r = i
  · subst r; simp [State.writeLimb, limb_setlimb]
  · simp [State.writeLimb, State.readX_writeX_other _ _ _ _ (Ne.symm hr), hr]

/-- Settles O35: the write at the limb's offset is `State.writeLimb`, and the read there finds the limb it put in. -/
theorem limbWriteReplacesOneLimb : Obligations.LimbWriteReplacesOneLimb := by
  intro s i j d hlegal hj hidle
  obtain ⟨hW, -, hL⟩ := Legal.limbs hlegal
  have h256 : j < 256 := by omega
  have hlimb := fun r k => s.limb_readX_writeLimb i r j k d
  refine ⟨_, memWrite_xaddr i d hidle hj h256, rfl, hlimb, ?_, fun hbound => ?_⟩
  · rw [memRead_respond, memRead_xaddr (s := s.writeLimb i j d) i hidle hj h256, hlimb, if_pos ⟨rfl, rfl⟩]
  · rw [hW] at hbound ⊢
    exact (s.readX_writeX_same i _).trans_lt (setlimb_lt d hj hbound)

/-- The write to the address of `CTRL` is `State.writeCtrl` (R66). -/
theorem memWrite_ctrl (s : State) (v : Word) :
    memWrite s 0x0008 4 v = .next ((s.writeCtrl v).respond .okWrite) := rfl

/-- The write to the address of `STATUS` is `State.writeStatus` (R66). -/
theorem memWrite_status (s : State) (v : Word) :
    memWrite s 0x000C 4 v = .next ((s.writeStatus v).respond .okWrite) := rfl

/-- Without bit 4, or while idle, a `CTRL` write sets the enables and does nothing else (R191, R193). -/
theorem State.writeCtrl_of_no_abort {s : State} {v : Word} (h : v[4] = false ∨ s.phase = .idle) :
    s.writeCtrl v = s.setEnables v := by
  rcases s.writeCtrl_cases v with e | ⟨hbit, hrun, -⟩
  · exact e
  · rcases h with hclear | hidle
    · exact absurd (hclear.symm.trans hbit) Bool.false_ne_true
    · simp [hidle] at hrun

/-- With bit 4, a `CTRL` write while a command runs sets the enables and discards the command (R191). -/
theorem State.writeCtrl_of_abort {s : State} {v : Word} (hbit : v[4] = true) (hrun : s.phase = .run) :
    s.writeCtrl v = (s.setEnables v).toIdle := by
  have hlsb : v.getLsbD 4 = true := hbit
  simp [State.writeCtrl, State.abortCommand, hlsb, hrun]

/-- `STATUS` does not look at the enables (R26). -/
theorem memRead_status_setEnables (s : State) (v : Word) :
    memRead (s.setEnables v) 0x000C 4 = memRead s 0x000C 4 := rfl

/-- Settles O39: without bit 4 the write is `State.setEnables`. -/
theorem enablesWrite : Obligations.EnablesWrite := by
  intro s v hbit
  rw [memWrite_ctrl, State.writeCtrl_of_no_abort (.inl hbit)]
  exact ⟨_, rfl, rfl, memRead_status_setEnables s v⟩

/-- An aborted command leaves the flags clear, as they were while it ran: `STATUS` reads 0 and `irq` is 0 (R31, R191). -/
theorem State.Inv.toIdle_status_irq {s : State} (h : s.Inv) (hrun : s.phase = .run) (v : Word) :
    (s.setEnables v).toIdle.statusWord = 0 ∧ (s.setEnables v).toIdle.irq = false := by
  obtain ⟨hdone, herr, hcode⟩ := h.flags_of_run hrun
  simp [State.statusWord, State.busy, State.irq, hdone, herr, hcode, bit]

/-- Settles O40, by the phase: the write is `State.setEnables`, followed by `State.toIdle` while a command runs. -/
theorem abortDiscardsTheCommand : Obligations.AbortDiscardsTheCommand := by
  intro s v hinv hbit
  refine ⟨_, memWrite_ctrl s v, fun hrun => ?_, fun hidle => ?_⟩
  · obtain ⟨hstatus, hirq⟩ := hinv.toIdle_status_irq hrun v
    rw [State.writeCtrl_of_abort hbit hrun]
    exact ⟨rfl, congrArg Answer.okRead hstatus, hirq⟩
  · rw [State.writeCtrl_of_no_abort (.inr hidle)]
    exact ⟨rfl, memRead_status_setEnables s v⟩

/-- Settles O41: each flag is cleared by its bit, and a running command has none to clear. -/
theorem statusWriteOneToClear : Obligations.StatusWriteOneToClear := by
  intro s v
  have hwrite : (s.writeStatus v).respond .okWrite = { s with
      done := s.done && !v[1], err := s.err && !v[2], errcode := if v[2] then 0 else s.errcode,
      answers := .okWrite :: s.answers } := by
    simp [State.writeStatus_eq, State.respond, Bool.and_comm]
  refine ⟨_, memWrite_status s v, hwrite, fun hinv hrun => ?_⟩
  obtain ⟨hdone, herr, hcode⟩ := hinv.flags_of_run hrun
  rw [hwrite]
  simp only [hdone, herr, hcode, Bool.false_and, ite_self]

end Sys2Proof.Machine

namespace Sys2Proof.Machine

/-! ## Precise faults -/

/-- An accepted command faults for its operands only, so never with the code of `ILLEGAL_CMD` (R210). -/
theorem bigStep_fault_code {i : Instr} {s : State} {c : FaultCode} (h : bigStep i s = .fault c) :
    2 ≤ c.code.toNat ∧ c.code.toNat ≤ 5 := by
  cases i with
  | modexp rd rs1 rs2 rs3 =>
    simp only [bigStep] at h
    split at h <;> cases h
    decide
  | modinv rd rs1 rs2 =>
    simp only [bigStep] at h
    split at h
    · cases h; decide
    · split at h <;> cases h
      decide
  | gcd rd rs1 rs2 => cases h
  | lcm rd rs1 rs2 =>
    simp only [bigStep] at h
    split at h
    · cases h; decide
    · split at h <;> cases h
      decide
  | clr rd => cases h

/-- Settles O30: the state a command ends in is its big-step result applied, and only a fault raises `ERR`. -/
theorem faultsArePrecise : Obligations.FaultsArePrecise := by
  intro i s t u T hidle ht hends herr
  cases (exec_idle i hidle).symm.trans ht
  obtain ⟨-, rfl⟩ := hends.unique (accepted_endsAfter i s)
  cases hresult : bigStep i s with
  | cont w => exact absurd hresult ((runEnds_bigStep i s).ne_cont w)
  | complete v => rw [hresult] at herr; exact absurd herr Bool.false_ne_true
  | fault c =>
    obtain ⟨hlo, hhi⟩ := bigStep_fault_code hresult
    have hirq : ((s.accepted i).raiseFault c).irq = s.ieErr := by simp [State.irq, State.accepted]
    exact ⟨rfl, rfl, rfl, rfl, rfl, hlo, hhi, hirq⟩

/-! ## The accesses answered `err` -/

/-- The clauses of R213 that reads and writes share, in the order of `Obligations.BusErrorsExactly`: size or alignment, an unmapped offset, a limb index of `L` or more, a window while a command runs. -/
def State.Refuses (s : State) (addr n : Nat) : Prop :=
  (n ≠ 4 ∨ addr % 4 ≠ 0) ∨ ((0x0014 ≤ addr ∧ addr ≤ 0x0FFF) ∨ 0x3000 ≤ addr) ∨
    ((0x1000 ≤ addr ∧ addr ≤ 0x2FFF) ∧ s.params.L ≤ windowLimb addr) ∨
    ((0x1000 ≤ addr ∧ addr ≤ 0x2FFF) ∧ s.phase = .run)

/-- The clauses of R213 for writes: the shared ones, `ID` and `PARAM`, and `CMD` while a command runs. -/
def State.RefusesWrite (s : State) (addr n : Nat) : Prop :=
  s.Refuses addr n ∨ addr = 0x0000 ∨ addr = 0x0004 ∨ (addr = 0x0010 ∧ s.phase = .run)

/-- Every access is illegal, or to one of the five control registers, or past them (R61). -/
theorem access_cases (addr n : Nat) :
    ¬ LegalAccess addr n ∨ (n = 4 ∧ (addr = 0x0000 ∨ addr = 0x0004 ∨ addr = 0x0008 ∨ addr = 0x000C ∨ addr = 0x0010)) ∨
      (LegalAccess addr n ∧ 0x0014 ≤ addr) := by
  unfold LegalAccess; omega

/-- A transaction the port cannot carry out at all is refused (R64). -/
theorem State.refuses_of_not_legal (s : State) {addr n : Nat} (h : ¬ LegalAccess addr n) : s.Refuses addr n := by
  unfold State.Refuses; unfold LegalAccess at h; omega

/-- The shared clauses refuse no access to a control register (R61). -/
theorem State.not_refuses_control (s : State) {addr : Nat} (halign : addr % 4 = 0) (h : addr ≤ 0x0010) :
    ¬ s.Refuses addr 4 := by
  unfold State.Refuses; omega

section PastControl

variable (s : State) {addr n : Nat} (hl : LegalAccess addr n) (hpast : 0x0014 ≤ addr)
include hl hpast

/-- Past the control registers a legal access is refused outside the windows, for its limb index, or while a command runs (R61, R63, R194). -/
theorem State.refuses_past_control_iff :
    s.Refuses addr n ↔ ¬ InWindow addr ∨ s.params.L ≤ windowLimb addr ∨ s.phase = .run := by
  obtain ⟨hn, halign, -⟩ := hl
  by_cases hw : InWindow addr
  · have hmapped : ¬((0x0014 ≤ addr ∧ addr ≤ 0x0FFF) ∨ 0x3000 ≤ addr) := by
      have := hw.1; omega
    simp [State.Refuses, hn, halign, hmapped, hw.1, hw.2]
  · have hunmapped : (0x0014 ≤ addr ∧ addr ≤ 0x0FFF) ∨ 0x3000 ≤ addr := by
      unfold InWindow at hw; omega
    exact iff_of_true (.inr (.inl hunmapped)) (.inl hw)

/-- Past the control registers none of the clauses of R213 on `ID`, `PARAM` and `CMD` applies. -/
theorem State.refusesWrite_past_control_iff :
    s.RefusesWrite addr n ↔ ¬ InWindow addr ∨ s.params.L ≤ windowLimb addr ∨ s.phase = .run := by
  have hne : ∀ k < 0x0014, addr ≠ k := fun k hk => by omega
  simp [State.RefusesWrite, s.refuses_past_control_iff hl hpast, hne]

/-- A legal read past the control registers (R65). -/
theorem memRead_past_control :
    memRead s addr n = if ¬ InWindow addr ∨ s.params.L ≤ windowLimb addr ∨ s.phase = .run then .err
      else .okRead (limb (s.readX (windowReg addr)) (windowLimb addr)) := by
  have hne : ∀ k < 0x0014, addr ≠ k := fun k hk => by omega
  by_cases hw : InWindow addr <;> by_cases hL : s.params.L ≤ windowLimb addr <;> simp [memRead, hl, hne, hw, hL]

/-- A legal write past the control registers (R66). -/
theorem memWrite_past_control (v : Word) :
    memWrite s addr n v =
      if ¬ InWindow addr ∨ s.params.L ≤ windowLimb addr ∨ s.phase = .run then .next (s.respond .err)
      else .next ((s.writeLimb (windowReg addr) (windowLimb addr) v).respond .okWrite) := by
  have hne : ∀ k < 0x0014, addr ≠ k := fun k hk => by omega
  by_cases hw : InWindow addr <;> by_cases hL : s.params.L ≤ windowLimb addr <;> simp [memWrite, hl, hne, hw, hL]

end PastControl

/-- The reads answered `err` (R65, R213). -/
theorem memRead_eq_err_iff (s : State) (addr n : Nat) : memRead s addr n = .err ↔ s.Refuses addr n := by
  rcases access_cases addr n with hl | ⟨rfl, haddr⟩ | ⟨hl, hpast⟩
  · exact iff_of_true (if_pos hl) (s.refuses_of_not_legal hl)
  · refine iff_of_false ?_ (s.not_refuses_control (by omega) (by omega))
    rcases haddr with rfl | rfl | rfl | rfl | rfl <;> exact nofun
  · rw [s.refuses_past_control_iff hl hpast, memRead_past_control s hl hpast]
    split
    next hrefused => exact iff_of_true rfl hrefused
    next hanswered => exact iff_of_false nofun hanswered

/-- A `CTRL` write does not touch the host's record of answers. -/
theorem State.writeCtrl_answers (s : State) (v : Word) : (s.writeCtrl v).answers = s.answers := by
  rcases s.writeCtrl_cases v with e | ⟨-, -, e⟩ <;> simp [e]

/-- A write is answered `err` and has no other effect where R213 lists it, and is answered `ok` elsewhere (R66). -/
theorem memWrite_answer (s : State) (addr n : Nat) (v : Word) :
    (s.RefusesWrite addr n ∧ memWrite s addr n v = .next (s.respond .err)) ∨
      (¬ s.RefusesWrite addr n ∧ ∃ t, memWrite s addr n v = .next t ∧ t.answers = .okWrite :: s.answers) := by
  rcases access_cases addr n with hl | ⟨rfl, haddr⟩ | ⟨hl, hpast⟩
  · exact .inl ⟨.inl (s.refuses_of_not_legal hl), if_pos hl⟩
  · have hcontrol : s.RefusesWrite addr 4 ↔ addr = 0x0000 ∨ addr = 0x0004 ∨ (addr = 0x0010 ∧ s.phase = .run) :=
      or_iff_right (s.not_refuses_control (by omega) (by omega))
    rw [hcontrol]
    rcases haddr with rfl | rfl | rfl | rfl | rfl
    · exact .inl ⟨by simp, rfl⟩
    · exact .inl ⟨by simp, rfl⟩
    · exact .inr ⟨by simp, _, memWrite_ctrl s v, by simp [s.writeCtrl_answers]⟩
    · exact .inr ⟨by simp, _, memWrite_status s v, by simp [State.writeStatus_eq]⟩
    · rw [memWrite_cmd]
      rcases writeCmd_cases s v with ⟨hrun, e⟩ | ⟨hidle, _, -, e⟩ | ⟨hidle, _, -, e⟩
      · exact .inl ⟨by simp [hrun], e⟩
      · exact .inr ⟨by simp [hidle], _, e, rfl⟩
      · exact .inr ⟨by simp [hidle], _, e, rfl⟩
  · rw [s.refusesWrite_past_control_iff hl hpast, memWrite_past_control s hl hpast v]
    split
    next hrefused => exact .inl ⟨hrefused, rfl⟩
    next haccepted => exact .inr ⟨haccepted, _, rfl, rfl⟩

/-- Settles O31: a read is its answer, and a write is either refused with no other effect or answered `ok`. -/
theorem busErrorsExactly : Obligations.BusErrorsExactly := by
  intro s addr n v wrongAccess unmapped window noSuchLimb windowWhileBusy
  have hread : transact s (.read addr n) = .next { s with answers := .err :: s.answers } ↔ s.Refuses addr n := by
    rw [← memRead_eq_err_iff]
    simp [transact, State.respond]
  have hclauses : (wrongAccess ∨ unmapped ∨ noSuchLimb ∨ windowWhileBusy ∨ addr = 0x0000 ∨ addr = 0x0004 ∨
      (addr = 0x0010 ∧ s.phase = .run)) ↔ s.RefusesWrite addr n := by
    simp only [State.RefusesWrite, State.Refuses, or_assoc, wrongAccess, unmapped, window, noSuchLimb, windowWhileBusy]
  have hwrite : transact s (.write addr n v) = memWrite s addr n v := rfl
  rw [hclauses, hwrite]
  refine ⟨hread, ?_⟩
  rcases memWrite_answer s addr n v with ⟨hrefused, hw⟩ | ⟨haccepted, u, hw, hok⟩
  · refine ⟨iff_of_true ⟨_, hw, rfl⟩ hrefused, fun t ht _ => ?_⟩
    cases hw.symm.trans ht; rfl
  · have hnoErr : ∀ t, memWrite s addr n v = .next t → t.answers ≠ .err :: s.answers := by
      intro t ht
      cases hw.symm.trans ht
      simp [hok]
    exact ⟨iff_of_false (fun ⟨t, ht, herr⟩ => hnoErr t ht herr) haccepted, fun t ht herr => absurd herr (hnoErr t ht)⟩

end Sys2Proof.Machine

namespace Sys2Proof.Machine

/-! ## Loading a register limb by limb -/

/-- After the limb writes 0 to `n-1` the low `32*n` bits are those of the value, and those above are still the old ones. -/
theorem foldl_setlimb_range (old value n : Nat) :
    (List.range n).foldl (fun v j => setlimb v j (limb value j)) old =
      value % 2 ^ (32 * n) + old / 2 ^ (32 * n) * 2 ^ (32 * n) := by
  induction n with
  | zero => simp [Nat.mod_one]
  | succ n ih =>
    have hp : 2 ^ (32 * (n + 1)) = 2 ^ (32 * n) * 2 ^ 32 := by rw [Nat.mul_succ, Nat.pow_add]
    have hlow : (value % 2 ^ (32 * n) + old / 2 ^ (32 * n) * 2 ^ (32 * n)) % 2 ^ (32 * n) = value % 2 ^ (32 * n) := by
      rw [Nat.add_mul_mod_self_right, Nat.mod_mod]
    have hhigh : (value % 2 ^ (32 * n) + old / 2 ^ (32 * n) * 2 ^ (32 * n)) / 2 ^ (32 * (n + 1)) =
        old / 2 ^ (32 * (n + 1)) := by
      have hpos : 0 < 2 ^ (32 * n) := Nat.two_pow_pos _
      rw [hp, ← Nat.div_div_eq_div_mul, ← Nat.div_div_eq_div_mul, Nat.add_mul_div_right _ _ hpos,
        Nat.div_eq_of_lt (Nat.mod_lt _ hpos), Nat.zero_add]
    have hvalue : value % 2 ^ (32 * n) + (limb value n).toNat * 2 ^ (32 * n) = value % 2 ^ (32 * (n + 1)) := by
      rw [limb_toNat, hp, Nat.mod_mul, Nat.mul_comm (2 ^ (32 * n))]
    rw [List.range_succ, List.foldl_append, ih, List.foldl_cons, List.foldl_nil, setlimb_eq, hlow, hhigh, hvalue]

/-- Settles O36: `L` limbs are all `W` bits, so nothing of the old value is left above them. -/
theorem writingAllLimbsLoadsTheValue : Obligations.WritingAllLimbsLoadsTheValue := by
  intro p old value hlegal hold hvalue
  obtain ⟨hW, -, -⟩ := Legal.limbs hlegal
  rw [hW] at hold hvalue
  rw [foldl_setlimb_range, Nat.mod_eq_of_lt hvalue, Nat.div_eq_of_lt hold, Nat.zero_mul, Nat.add_zero]

/-! ## The block held in reset -/

/-- Settles O49: either agent's move in reset is `State.resetBlock`, and the block already has those values. -/
theorem heldInReset : Obligations.HeldInReset := by
  intro s hinv hrst hturn
  have hheld : s.popTurn.resetBlock = s.popTurn := hinv.after_popTurn.held hrst
  have hhost : hostMove s.popTurn = .next s.popTurn.resetBlock := if_pos hrst
  have hengine : engineMove s.popTurn = .next s.popTurn.resetBlock := if_pos hrst
  have hpop : s.popTurn = { s with turns := s.turns.tail } := rfl
  rw [← hpop]
  rcases hturn with hturn | hturn <;> rw [step, hturn]
  · exact hhost.trans (congrArg _ hheld)
  · exact hengine.trans (congrArg _ hheld)

end Sys2Proof.Machine
